-- ==== Sys2Proof/Word.lean ====
section
/-! DEFINITION. The word types of QEPID: the 32-bit register word, the 8-bit register address, the 41-bit bus word
(R7, R100). -/

namespace Sys2Proof

/-- A host data word: every register is 32 bits wide (R7, R45). -/
abbrev Word := BitVec 32

/-- A byte address of the 256-byte register space (R7, R80). -/
abbrev Addr := BitVec 8

/-- One host operation on the bus, format BUS41: bit 40 WE, bits 39:32 ADDR, bits 31:0 WDATA (R100). -/
abbrev BusWord := BitVec 41

/-- A duty in unsigned Q1.16: 17 bits, legal range 0 to 0x10000 (R7, R10). -/
abbrev Duty := BitVec 17

end Sys2Proof
end

