-- ==== Sys2Proof/Config.lean ====
section
/-! DEFINITION. What an instance fixes (the parameters F_CLK and N_DIR, R6) and the free values: results the spec gives no
value for, constants without a body. -/

namespace Sys2Proof

/-- The two parameters of an instance (R6). They stand in State and no step changes them, so a statement about every
state is a statement about every instance (log 1). -/
structure Params where
  /-- `F_CLK`: the clock frequency in Hz, legal 1 to 2^32 - 1 (R6). -/
  fClk : Nat
  /-- `N_DIR`: the number of direction lines, legal 1 to 8 (R6). -/
  nDir : Nat
deriving DecidableEq, Repr

namespace Config

/-- Free value: what `RND(n, 0)` is. R11 defines RND for `d > 0` only, and R163, R206 and R207 reach it with `d > 0`
while a unit runs. UNVERIFIED free value, safe (log 8). -/
opaque rndByZero : Int → Int

/-- Free value: what `n mod 0` is in the control-period counter. R201 takes the counter modulo P, and `P >= 2` while the
loop runs. UNVERIFIED free value, safe (log 9). -/
opaque modByZero : Nat → Nat

end Config
end Sys2Proof
end

