-- ==== Sys2Proof/Machine/State.lean ====
section
/-! DEFINITION. The state of QEPID (R41 to R44 and the registers R51 to R67), the parameters, the ports of the present cycle,
the inputs of the cycles to come, the reset state (R350, R352), and the reasons a step can stop. -/

namespace Sys2Proof.Machine

/-- A direction, the four values of the direction table; `Dir.code` gives the 2-bit codes (R36). -/
inductive Dir where
  | stop | forward | backward | invalid
deriving DecidableEq, Repr

/-- The selected direction pattern (R37). Code 3 is reserved and never produced, so it has no constructor (log 14). -/
inductive DirSel where
  | stop | fwd | bwd
deriving DecidableEq, Repr

/-- Encoder state (R41). -/
structure EncState where
  /-- `enc_run`: encoder running (R41, R43). -/
  run : Bool
  /-- `a_q`: level of `enc_a` in the previous cycle. -/
  aQ : Bool
  /-- `b_q`: level of `enc_b` in the previous cycle. -/
  bQ : Bool
  /-- `hist`: previous pair, current pair. -/
  hist : BitVec 4
  /-- `dir_live`: the direction latch. -/
  dirLive : Dir
  /-- `last_neg`: the last FORWARD-or-BACKWARD direction was BACKWARD. -/
  lastNeg : Bool
  /-- `count`: live tick counter. -/
  count : Word
  /-- `base`: `count` at the previous publication. -/
  base : Word
  /-- `scnt`: cycles since the previous publication. -/
  scnt : Word
  /-- `pub_count`: published tick count. -/
  pubCount : Word
  /-- `pub_dir`: published direction. -/
  pubDir : Dir
  /-- `pub_speed`: published speed magnitude, unsigned Q16.16. -/
  pubSpeed : Word
  /-- `pub_neg`: published sign. -/
  pubNeg : Bool
  /-- `snap_dir`: snapshot of `pub_dir`. -/
  snapDir : Dir
  /-- `snap_speed`: snapshot of `pub_speed`. -/
  snapSpeed : Word
  /-- `snap_neg`: snapshot of `pub_neg`. -/
  snapNeg : Bool
deriving DecidableEq, Repr

/-- Control-loop state (R42). -/
structure McState where
  /-- `mc_run`: control loop running (R42, R43). -/
  run : Bool
  /-- `mcnt`: control-period counter. -/
  mcnt : Word
  /-- `prev_err`: error of the previous tick, signed Q16.16. -/
  prevErr : Word
  /-- `integ`: error integral, signed Q16.16. -/
  integ : Word
  /-- `out`: PID output of the last tick, signed Q16.16. -/
  out : Word
  /-- `duty`: signed duty of the last tick, signed Q16.16. -/
  duty : Word
  /-- `dirsel`: selected direction pattern. -/
  dirsel : DirSel
  /-- `pwm_duty`: duty on the `pwm_duty` port. -/
  pwmDuty : Duty
  /-- `pend_v`: a duty is waiting to be applied next cycle. -/
  pendV : Bool
  /-- `pend_duty`: that waiting duty. -/
  pendDuty : Duty
  /-- `pwm_freq_out`: frequency on the `pwm_freq` port. -/
  pwmFreqOut : Word
deriving DecidableEq, Repr

/-- The configuration fields held in registers (R51 to R53, R59 to R67). -/
structure Regs where
  /-- ENC_CFG.QUAD (R51). -/
  quad : Bool
  /-- ENC_RES.RES (R52). -/
  res : BitVec 16
  /-- ENC_SPER.SPER (R53). -/
  sper : Word
  /-- MC_TARGET (R59), signed Q16.16. -/
  target : Word
  /-- MC_KP (R60), signed Q16.16. -/
  kp : Word
  /-- MC_KI (R61), signed Q16.16. -/
  ki : Word
  /-- MC_KD (R62), signed Q16.16. -/
  kd : Word
  /-- MC_MIN_DUTY.MIN (R63), unsigned Q1.16. -/
  minDuty : Duty
  /-- MC_MAX_SPEED.MAXS (R64), unsigned Q16.16. -/
  maxSpeed : Word
  /-- MC_PERIOD.P (R65), clock cycles. -/
  period : Word
  /-- MC_PWM_FREQ.PWMF (R66), Hz. -/
  pwmFreq : Word
  /-- MC_PAT.PAT_FWD (R67). -/
  patFwd : BitVec 8
  /-- MC_PAT.PAT_BWD (R67). -/
  patBwd : BitVec 8
  /-- MC_PAT.PAT_STOP (R67). -/
  patStop : BitVec 8
deriving DecidableEq, Repr

/-- The six sticky flags, STATUS bits 5 to 10 (R43). The same record serves for the sets SET and CLR of R88. -/
structure Sticky where
  /-- `pub_f`, bit 5. -/
  pub : Bool
  /-- `inv_f`, bit 6. -/
  inv : Bool
  /-- `encf_f`, bit 7. -/
  encf : Bool
  /-- `mcf_f`, bit 8. -/
  mcf : Bool
  /-- `pidsat_f`, bit 9. -/
  pidsat : Bool
  /-- `dutysat_f`, bit 10. -/
  dutysat : Bool
deriving DecidableEq, Repr

/-- The error flag and the error-capture state (R43, R44). -/
structure ErrCapture where
  /-- `err`, STATUS bit 4. -/
  err : Bool
  /-- `err_code`. -/
  code : BitVec 8
  /-- `err_addr`. -/
  addr : Addr
  /-- `err_ovf`. -/
  ovf : Bool
deriving DecidableEq, Repr

/-- The levels of the encoder-side input ports in the present cycle (R30). -/
structure Pins where
  /-- `enc_a`. -/
  a : Bool
  /-- `enc_b`. -/
  b : Bool
  /-- `enc_fault`. -/
  fault : Bool
deriving DecidableEq, Repr

/-- The response on the bus in the cycle just run (R30, R34): the model's latch of the two output ports (log 5). -/
structure BusResp where
  /-- `bus_rdata`. -/
  rdata : Word
  /-- `bus_err`. -/
  err : Bool
deriving DecidableEq, Repr

/-- The inputs of one cycle (R13, R30): `rst`, the levels, and the host transaction if `bus_sel = 1` (R34, R100). -/
structure CycleIn where
  /-- `rst`. -/
  rst : Bool
  /-- `enc_a`, `enc_b`, `enc_fault`. -/
  pins : Pins
  /-- `in.req`: the BUS41 word, none when `bus_sel = 0`. -/
  req : Option BusWord
deriving DecidableEq, Repr

/-- The machine: the block's state of R41 to R44 and R51 to R67, the instance's parameters (R6), the ports of the present
cycle, and the inputs of the cycles to come, the first one next (R13, R15; log 2). -/
structure State where
  /-- `F_CLK` and `N_DIR` (R6); no step changes them. -/
  params : Params
  enc : EncState
  mc : McState
  regs : Regs
  flags : Sticky
  cap : ErrCapture
  bus : BusResp
  pins : Pins
  /-- The inputs of the cycles to come. -/
  stim : List CycleIn
deriving DecidableEq, Repr

/-- Why the machine stops. -/
inductive Fault where
  /-- Raised by `step` alone, when no inputs of a further cycle are given: "a run ends where its stimulus ends" (R15). Safe: the
  hardware goes on with its clock, the model says nothing about that (log 3). -/
  | stimulusEnded
deriving DecidableEq, Repr

/-- Why an instruction has no meaning. -/
inductive Refusal where
  /-- Raised by an arm of `exec` whose instruction is not modelled yet. No arm raises it. Safe. -/
  | notModelled (mnemonic : String)
deriving DecidableEq, Repr

/-- Reset column of R41. -/
def EncState.reset : EncState :=
  { run := false, aQ := false, bQ := false, hist := 0#4, dirLive := .stop, lastNeg := false, count := 0#32, base := 0#32,
    scnt := 0#32, pubCount := 0#32, pubDir := .stop, pubSpeed := 0#32, pubNeg := false, snapDir := .stop,
    snapSpeed := 0#32, snapNeg := false }

/-- Reset column of R42. -/
def McState.reset : McState :=
  { run := false, mcnt := 0#32, prevErr := 0#32, integ := 0#32, out := 0#32, duty := 0#32, dirsel := .stop,
    pwmDuty := 0#17, pendV := false, pendDuty := 0#17, pwmFreqOut := 0#32 }

/-- Reset values of the registers R51 to R53 and R59 to R67. -/
def Regs.reset : Regs :=
  { quad := true, res := 0#16, sper := 0#32, target := 0#32, kp := 0#32, ki := 0#32, kd := 0#32, minDuty := 0#17,
    maxSpeed := 0#32, period := 0#32, pwmFreq := 0#32, patFwd := 0#8, patBwd := 0#8, patStop := 0#8 }

/-- No sticky flag: the reset values of R43 and the empty set of R88. -/
def Sticky.none : Sticky :=
  { pub := false, inv := false, encf := false, mcf := false, pidsat := false, dutysat := false }

/-- Reset values of R44 and of the flag `err` (R43); also what CLR_ERR leaves (R142). -/
def ErrCapture.none : ErrCapture := { err := false, code := 0#8, addr := 0#8, ovf := false }

/-- `bus_rdata = 0`, `bus_err = 0` (R34, R354). -/
def BusResp.idle : BusResp := { rdata := 0#32, err := false }

/-- The machine right after reset (R350 to R352): every field of the block at its reset value, for the instance N_DIR = 2 (the
default of R6) and F_CLK = 100 (DESIGN CHOICE: OPEN in the spec, log 1), with the input levels low (DESIGN CHOICE, log 4) and
no further cycle given (log 6). -/
def State.reset : State :=
  { params := { fClk := 100, nDir := 2 }, enc := EncState.reset, mc := McState.reset, regs := Regs.reset,
    flags := Sticky.none, cap := ErrCapture.none, bus := BusResp.idle,
    pins := { a := false, b := false, fault := false }, stim := [] }

/-- Replace the encoder state. -/
def State.withEnc (s : State) (e : EncState) : State := { s with enc := e }

/-- Replace the control-loop state. -/
def State.withMc (s : State) (m : McState) : State := { s with mc := m }

/-- Replace the configuration registers. -/
def State.withRegs (s : State) (r : Regs) : State := { s with regs := r }

/-- Replace the sticky flags. -/
def State.withFlags (s : State) (f : Sticky) : State := { s with flags := f }

/-- Replace the error capture. -/
def State.withCap (s : State) (c : ErrCapture) : State := { s with cap := c }

/-- Replace the bus response. -/
def State.withBus (s : State) (b : BusResp) : State := { s with bus := b }

/-- Take the levels of the present cycle and leave the inputs of the cycles after it. -/
def State.withInputs (s : State) (p : Pins) (rest : List CycleIn) : State := { s with pins := p, stim := rest }

end Sys2Proof.Machine
end

