-- ==== Sys2Proof/Machine/Flags.lean ====
section
/-! DEFINITION. The sticky flags: what one cycle leaves of them (phase 7 of R88) and which of them a write to STATUS clears
(R139). -/

namespace Sys2Proof.Machine

/-- One sticky flag at the end of a cycle: `(S.f and f not in CLR) or f in SET` (R88 phase 7, R139). -/
def stickyBit (old clr set : Bool) : Bool := (old && !clr) || set

/-- Phase 7 of R88 for the six sticky flags. -/
def stickyNext (old clr set : Sticky) : Sticky :=
  { pub := stickyBit old.pub clr.pub set.pub
    inv := stickyBit old.inv clr.inv set.inv
    encf := stickyBit old.encf clr.encf set.encf
    mcf := stickyBit old.mcf clr.mcf set.mcf
    pidsat := stickyBit old.pidsat clr.pidsat set.pidsat
    dutysat := stickyBit old.dutysat clr.dutysat set.dutysat }

/-- The set CLR of a write of `v` to STATUS: the flags of bits 5 to 10 written with 1 (R139). -/
def statusClears (v : Word) : Sticky :=
  { pub := v.getLsbD 5
    inv := v.getLsbD 6
    encf := v.getLsbD 7
    mcf := v.getLsbD 8
    pidsat := v.getLsbD 9
    dutysat := v.getLsbD 10 }

end Sys2Proof.Machine
end

