-- ==== Sys2Proof/Syntax.lean ====
section
/-! DEFINITION. The instructions of QEPID: one constructor per row of spec/opcode_table.json, the host operations one bus
cycle can carry (R108). -/

namespace Sys2Proof

/-- A decoded host operation (R108): 28 register reads, which have no operand (R131), 13 register writes with their 32-bit
write data (R132), and 7 commands (R103). -/
inductive Instr where
  /-- `RD ID` (R135). -/
  | rdId
  /-- `RD CMD` (R136). -/
  | rdCmd
  /-- `RD STATUS` (R138). -/
  | rdStatus
  /-- `RD ERR_CAUSE` (R140). -/
  | rdErrCause
  /-- `RD ENC_CFG` (R173). -/
  | rdEncCfg
  /-- `RD ENC_RES` (R175). -/
  | rdEncRes
  /-- `RD ENC_SPER` (R177). -/
  | rdEncSper
  /-- `RD ENC_COUNT` (R167). -/
  | rdEncCount
  /-- `RD ENC_DIR` (R168). -/
  | rdEncDir
  /-- `RD ENC_SPEED` (R169). -/
  | rdEncSpeed
  /-- `RD ENC_SSPEED` (R170). -/
  | rdEncSspeed
  /-- `RD ENC_DBG` (R171). -/
  | rdEncDbg
  /-- `RD MC_TARGET` (R217). -/
  | rdMcTarget
  /-- `RD MC_KP` (R219). -/
  | rdMcKp
  /-- `RD MC_KI` (R221). -/
  | rdMcKi
  /-- `RD MC_KD` (R223). -/
  | rdMcKd
  /-- `RD MC_MIN_DUTY` (R225). -/
  | rdMcMinDuty
  /-- `RD MC_MAX_SPEED` (R227). -/
  | rdMcMaxSpeed
  /-- `RD MC_PERIOD` (R229). -/
  | rdMcPeriod
  /-- `RD MC_PWM_FREQ` (R231). -/
  | rdMcPwmFreq
  /-- `RD MC_PAT` (R233). -/
  | rdMcPat
  /-- `RD MC_SPEED` (R234). -/
  | rdMcSpeed
  /-- `RD MC_PREV_ERR` (R235). -/
  | rdMcPrevErr
  /-- `RD MC_INTEGRAL` (R236). -/
  | rdMcIntegral
  /-- `RD MC_OUTPUT` (R237). -/
  | rdMcOutput
  /-- `RD MC_DUTY` (R238). -/
  | rdMcDuty
  /-- `RD MC_OUT` (R239). -/
  | rdMcOut
  /-- `RD MC_PWM_FREQ_OUT` (R240). -/
  | rdMcPwmFreqOut
  /-- `WR STATUS`, v (R139). -/
  | wrStatus (v : Word)
  /-- `WR ENC_CFG`, v (R172). -/
  | wrEncCfg (v : Word)
  /-- `WR ENC_RES`, v (R174). -/
  | wrEncRes (v : Word)
  /-- `WR ENC_SPER`, v (R176). -/
  | wrEncSper (v : Word)
  /-- `WR MC_TARGET`, v (R216). -/
  | wrMcTarget (v : Word)
  /-- `WR MC_KP`, v (R218). -/
  | wrMcKp (v : Word)
  /-- `WR MC_KI`, v (R220). -/
  | wrMcKi (v : Word)
  /-- `WR MC_KD`, v (R222). -/
  | wrMcKd (v : Word)
  /-- `WR MC_MIN_DUTY`, v (R224). -/
  | wrMcMinDuty (v : Word)
  /-- `WR MC_MAX_SPEED`, v (R226). -/
  | wrMcMaxSpeed (v : Word)
  /-- `WR MC_PERIOD`, v (R228). -/
  | wrMcPeriod (v : Word)
  /-- `WR MC_PWM_FREQ`, v (R230). -/
  | wrMcPwmFreq (v : Word)
  /-- `WR MC_PAT`, v (R232). -/
  | wrMcPat (v : Word)
  /-- `CMD NOP` (R141). -/
  | cmdNop
  /-- `CMD ENC_START` (R180). -/
  | cmdEncStart
  /-- `CMD ENC_STOP` (R181). -/
  | cmdEncStop
  /-- `CMD MC_START` (R214). -/
  | cmdMcStart
  /-- `CMD MC_STOP` (R215). -/
  | cmdMcStop
  /-- `CMD CLR_ERR` (R142). -/
  | cmdClrErr
  /-- `CMD SOFT_RESET` (R143). -/
  | cmdSoftReset
deriving DecidableEq, Repr

end Sys2Proof
end

