-- ==== Sys2Proof/Decode.lean ====
section
/-! DEFINITION. The register map (R45), the error codes (R301), the decoder of R102, total on every bus word and rejecting by
the error's name, and the encoder of R100 to R103 and R108. -/

namespace Sys2Proof

/-- The error codes of R301: twelve bus errors, raised by a transaction, and the one asynchronous error. -/
inductive ErrCode where
  /-- UNALIGNED -/
  | unaligned
  /-- UNMAPPED -/
  | unmapped
  /-- RO_WRITE -/
  | roWrite
  /-- BUSY_CONFIG -/
  | busyConfig
  /-- ILLEGAL_CMD -/
  | illegalCmd
  /-- ALREADY_RUNNING -/
  | alreadyRunning
  /-- ENC_OWNED -/
  | encOwned
  /-- CFG_RES_ZERO -/
  | cfgResZero
  /-- CFG_SPER_ZERO -/
  | cfgSperZero
  /-- CFG_MCPER_SMALL -/
  | cfgMcperSmall
  /-- CFG_MAXSPD_ZERO -/
  | cfgMaxspdZero
  /-- HW_FAULT_AT_START -/
  | hwFaultAtStart
  /-- ENC_HW_FAULT (asynchronous) -/
  | encHwFault
deriving DecidableEq, Repr

/-- The value of ERR_CAUSE.CODE for each error (R301). -/
def ErrCode.code : ErrCode → BitVec 8
  | .unaligned => 0x01#8
  | .unmapped => 0x02#8
  | .roWrite => 0x03#8
  | .busyConfig => 0x04#8
  | .illegalCmd => 0x05#8
  | .alreadyRunning => 0x06#8
  | .encOwned => 0x07#8
  | .cfgResZero => 0x08#8
  | .cfgSperZero => 0x09#8
  | .cfgMcperSmall => 0x0A#8
  | .cfgMaxspdZero => 0x0B#8
  | .hwFaultAtStart => 0x0C#8
  | .encHwFault => 0x10#8

/-- The 28 registers of the register map (R45). -/
inductive RegName where
  /-- ID (R47) -/
  | id
  /-- CMD (R48) -/
  | cmd
  /-- STATUS (R49) -/
  | status
  /-- ERR_CAUSE (R50) -/
  | errCause
  /-- ENC_CFG (R51) -/
  | encCfg
  /-- ENC_RES (R52) -/
  | encRes
  /-- ENC_SPER (R53) -/
  | encSper
  /-- ENC_COUNT (R54) -/
  | encCount
  /-- ENC_DIR (R55) -/
  | encDir
  /-- ENC_SPEED (R56) -/
  | encSpeed
  /-- ENC_SSPEED (R57) -/
  | encSspeed
  /-- ENC_DBG (R58) -/
  | encDbg
  /-- MC_TARGET (R59) -/
  | mcTarget
  /-- MC_KP (R60) -/
  | mcKp
  /-- MC_KI (R61) -/
  | mcKi
  /-- MC_KD (R62) -/
  | mcKd
  /-- MC_MIN_DUTY (R63) -/
  | mcMinDuty
  /-- MC_MAX_SPEED (R64) -/
  | mcMaxSpeed
  /-- MC_PERIOD (R65) -/
  | mcPeriod
  /-- MC_PWM_FREQ (R66) -/
  | mcPwmFreq
  /-- MC_PAT (R67) -/
  | mcPat
  /-- MC_SPEED (R68) -/
  | mcSpeed
  /-- MC_PREV_ERR (R69) -/
  | mcPrevErr
  /-- MC_INTEGRAL (R70) -/
  | mcIntegral
  /-- MC_OUTPUT (R71) -/
  | mcOutput
  /-- MC_DUTY (R72) -/
  | mcDuty
  /-- MC_OUT (R73) -/
  | mcOut
  /-- MC_PWM_FREQ_OUT (R74) -/
  | mcPwmFreqOut
deriving DecidableEq, Repr

/-- The access types of R46. -/
inductive Access where
  /-- RO: a write is the error RO_WRITE. -/
  | ro
  /-- WO: only CMD; a read returns 0. -/
  | wo
  /-- RO fields and W1C fields: only STATUS. -/
  | w1c
  /-- RW: writable at any time. -/
  | rw
  /-- RW-ES: writable only while the encoder is stopped. -/
  | rwES
  /-- RW-MS: writable only while the control loop is stopped. -/
  | rwMS
deriving DecidableEq, Repr

/-- The byte address of each register (R45). -/
def RegName.addr : RegName → Addr
  | .id => 0x00#8
  | .cmd => 0x04#8
  | .status => 0x08#8
  | .errCause => 0x0C#8
  | .encCfg => 0x10#8
  | .encRes => 0x14#8
  | .encSper => 0x18#8
  | .encCount => 0x1C#8
  | .encDir => 0x20#8
  | .encSpeed => 0x24#8
  | .encSspeed => 0x28#8
  | .encDbg => 0x2C#8
  | .mcTarget => 0x40#8
  | .mcKp => 0x44#8
  | .mcKi => 0x48#8
  | .mcKd => 0x4C#8
  | .mcMinDuty => 0x50#8
  | .mcMaxSpeed => 0x54#8
  | .mcPeriod => 0x58#8
  | .mcPwmFreq => 0x5C#8
  | .mcPat => 0x60#8
  | .mcSpeed => 0x64#8
  | .mcPrevErr => 0x68#8
  | .mcIntegral => 0x6C#8
  | .mcOutput => 0x70#8
  | .mcDuty => 0x74#8
  | .mcOut => 0x78#8
  | .mcPwmFreqOut => 0x7C#8

/-- The access type of each register (R45, R46). -/
def RegName.access : RegName → Access
  | .id => .ro
  | .cmd => .wo
  | .status => .w1c
  | .errCause => .ro
  | .encCfg => .rwES
  | .encRes => .rwES
  | .encSper => .rwES
  | .encCount => .ro
  | .encDir => .ro
  | .encSpeed => .ro
  | .encSspeed => .ro
  | .encDbg => .ro
  | .mcTarget => .rw
  | .mcKp => .rwMS
  | .mcKi => .rwMS
  | .mcKd => .rwMS
  | .mcMinDuty => .rwMS
  | .mcMaxSpeed => .rwMS
  | .mcPeriod => .rwMS
  | .mcPwmFreq => .rwMS
  | .mcPat => .rwMS
  | .mcSpeed => .ro
  | .mcPrevErr => .ro
  | .mcIntegral => .ro
  | .mcOutput => .ro
  | .mcDuty => .ro
  | .mcOut => .ro
  | .mcPwmFreqOut => .ro

/-- The registers of the map, in address order (R45). -/
def RegName.all : List RegName :=
  [.id, .cmd, .status, .errCause, .encCfg, .encRes, .encSper,
   .encCount, .encDir, .encSpeed, .encSspeed, .encDbg, .mcTarget, .mcKp,
   .mcKi, .mcKd, .mcMinDuty, .mcMaxSpeed, .mcPeriod, .mcPwmFreq, .mcPat,
   .mcSpeed, .mcPrevErr, .mcIntegral, .mcOutput, .mcDuty, .mcOut, .mcPwmFreqOut]

/-- The register at a byte address; none where the address is unmapped (R45, R85). -/
def RegName.ofAddr (a : Addr) : Option RegName :=
  RegName.all.find? (fun r => r.addr == a)

/-- The field WE of a bus word (R100). -/
def busWe (w : BusWord) : Bool := w.getLsbD 40

/-- The field ADDR of a bus word (R100). -/
def busAddr (w : BusWord) : Addr := w.extractLsb' 32 8

/-- The field WDATA of a bus word (R100). -/
def busData (w : BusWord) : Word := w.extractLsb' 0 32

/-- The bus word with the given fields (R100). -/
def busWord (we : Bool) (addr : Addr) (data : Word) : BusWord :=
  BitVec.ofBool we ++ addr ++ data

/-- The field MBZ of the write data of a write to CMD (R101). -/
def cmdMbz (v : Word) : BitVec 24 := v.extractLsb' 8 24

/-- The field OPC of the write data of a write to CMD (R101). -/
def cmdOpc (v : Word) : BitVec 8 := v.extractLsb' 0 8

/-- The instruction "RD <name>" of a register (R102). -/
def readOf : RegName → Instr
  | .id => .rdId
  | .cmd => .rdCmd
  | .status => .rdStatus
  | .errCause => .rdErrCause
  | .encCfg => .rdEncCfg
  | .encRes => .rdEncRes
  | .encSper => .rdEncSper
  | .encCount => .rdEncCount
  | .encDir => .rdEncDir
  | .encSpeed => .rdEncSpeed
  | .encSspeed => .rdEncSspeed
  | .encDbg => .rdEncDbg
  | .mcTarget => .rdMcTarget
  | .mcKp => .rdMcKp
  | .mcKi => .rdMcKi
  | .mcKd => .rdMcKd
  | .mcMinDuty => .rdMcMinDuty
  | .mcMaxSpeed => .rdMcMaxSpeed
  | .mcPeriod => .rdMcPeriod
  | .mcPwmFreq => .rdMcPwmFreq
  | .mcPat => .rdMcPat
  | .mcSpeed => .rdMcSpeed
  | .mcPrevErr => .rdMcPrevErr
  | .mcIntegral => .rdMcIntegral
  | .mcOutput => .rdMcOutput
  | .mcDuty => .rdMcDuty
  | .mcOut => .rdMcOut
  | .mcPwmFreqOut => .rdMcPwmFreqOut

/-- The command of a write to CMD (R101, R103): MBZ must be 0 and OPC one of the seven codes (R106). -/
def commandOf (v : Word) : Except ErrCode Instr :=
  if cmdMbz v ≠ 0#24 then .error .illegalCmd
  else match (cmdOpc v).toNat with
    | 0 => .ok .cmdNop
    | 1 => .ok .cmdEncStart
    | 2 => .ok .cmdEncStop
    | 3 => .ok .cmdMcStart
    | 4 => .ok .cmdMcStop
    | 5 => .ok .cmdClrErr
    | 6 => .ok .cmdSoftReset
    | _ => .error .illegalCmd

/-- A write to a register: RO_WRITE for a RO register, the command for CMD, else "WR <name>" (R102). -/
def writeOf (r : RegName) (v : Word) : Except ErrCode Instr :=
  match r with
  | .id => .error .roWrite
  | .cmd => commandOf v
  | .status => .ok (.wrStatus v)
  | .errCause => .error .roWrite
  | .encCfg => .ok (.wrEncCfg v)
  | .encRes => .ok (.wrEncRes v)
  | .encSper => .ok (.wrEncSper v)
  | .encCount => .error .roWrite
  | .encDir => .error .roWrite
  | .encSpeed => .error .roWrite
  | .encSspeed => .error .roWrite
  | .encDbg => .error .roWrite
  | .mcTarget => .ok (.wrMcTarget v)
  | .mcKp => .ok (.wrMcKp v)
  | .mcKi => .ok (.wrMcKi v)
  | .mcKd => .ok (.wrMcKd v)
  | .mcMinDuty => .ok (.wrMcMinDuty v)
  | .mcMaxSpeed => .ok (.wrMcMaxSpeed v)
  | .mcPeriod => .ok (.wrMcPeriod v)
  | .mcPwmFreq => .ok (.wrMcPwmFreq v)
  | .mcPat => .ok (.wrMcPat v)
  | .mcSpeed => .error .roWrite
  | .mcPrevErr => .error .roWrite
  | .mcIntegral => .error .roWrite
  | .mcOutput => .error .roWrite
  | .mcDuty => .error .roWrite
  | .mcOut => .error .roWrite
  | .mcPwmFreqOut => .error .roWrite

/-- The decoder of R102, on the fields of the word alone and in the order of that rule. -/
def decode (w : BusWord) : Except ErrCode Instr :=
  if (busAddr w).extractLsb' 0 2 ≠ 0#2 then .error .unaligned
  else match RegName.ofAddr (busAddr w) with
    | none => .error .unmapped
    | some r => if busWe w then writeOf r (busData w) else .ok (readOf r)

/-- The fields of an instruction's bus word: WE, the register addressed, WDATA (R100, R103, R108). A read's WDATA is
don't-care and encoded as 0, the table's match (R108, log 12). -/
def fieldsOf : Instr → Bool × RegName × Word
  | .rdId => (false, .id, 0#32)
  | .rdCmd => (false, .cmd, 0#32)
  | .rdStatus => (false, .status, 0#32)
  | .rdErrCause => (false, .errCause, 0#32)
  | .rdEncCfg => (false, .encCfg, 0#32)
  | .rdEncRes => (false, .encRes, 0#32)
  | .rdEncSper => (false, .encSper, 0#32)
  | .rdEncCount => (false, .encCount, 0#32)
  | .rdEncDir => (false, .encDir, 0#32)
  | .rdEncSpeed => (false, .encSpeed, 0#32)
  | .rdEncSspeed => (false, .encSspeed, 0#32)
  | .rdEncDbg => (false, .encDbg, 0#32)
  | .rdMcTarget => (false, .mcTarget, 0#32)
  | .rdMcKp => (false, .mcKp, 0#32)
  | .rdMcKi => (false, .mcKi, 0#32)
  | .rdMcKd => (false, .mcKd, 0#32)
  | .rdMcMinDuty => (false, .mcMinDuty, 0#32)
  | .rdMcMaxSpeed => (false, .mcMaxSpeed, 0#32)
  | .rdMcPeriod => (false, .mcPeriod, 0#32)
  | .rdMcPwmFreq => (false, .mcPwmFreq, 0#32)
  | .rdMcPat => (false, .mcPat, 0#32)
  | .rdMcSpeed => (false, .mcSpeed, 0#32)
  | .rdMcPrevErr => (false, .mcPrevErr, 0#32)
  | .rdMcIntegral => (false, .mcIntegral, 0#32)
  | .rdMcOutput => (false, .mcOutput, 0#32)
  | .rdMcDuty => (false, .mcDuty, 0#32)
  | .rdMcOut => (false, .mcOut, 0#32)
  | .rdMcPwmFreqOut => (false, .mcPwmFreqOut, 0#32)
  | .wrStatus v => (true, .status, v)
  | .wrEncCfg v => (true, .encCfg, v)
  | .wrEncRes v => (true, .encRes, v)
  | .wrEncSper v => (true, .encSper, v)
  | .wrMcTarget v => (true, .mcTarget, v)
  | .wrMcKp v => (true, .mcKp, v)
  | .wrMcKi v => (true, .mcKi, v)
  | .wrMcKd v => (true, .mcKd, v)
  | .wrMcMinDuty v => (true, .mcMinDuty, v)
  | .wrMcMaxSpeed v => (true, .mcMaxSpeed, v)
  | .wrMcPeriod v => (true, .mcPeriod, v)
  | .wrMcPwmFreq v => (true, .mcPwmFreq, v)
  | .wrMcPat v => (true, .mcPat, v)
  | .cmdNop => (true, .cmd, 0x00#32)
  | .cmdEncStart => (true, .cmd, 0x01#32)
  | .cmdEncStop => (true, .cmd, 0x02#32)
  | .cmdMcStart => (true, .cmd, 0x03#32)
  | .cmdMcStop => (true, .cmd, 0x04#32)
  | .cmdClrErr => (true, .cmd, 0x05#32)
  | .cmdSoftReset => (true, .cmd, 0x06#32)

/-- The encoder: the bus word of an instruction (R100, R108). -/
def encode (i : Instr) : BusWord :=
  busWord (fieldsOf i).1 (fieldsOf i).2.1.addr (fieldsOf i).2.2

/-- The 41-bit bus word of the opcode table's number, none where a bit above bit 40 is set: the bus has no such line
(R100, log 7). -/
def tableBusWord (nbits w : Nat) : Option BusWord :=
  if w % 2 ^ nbits < 2 ^ 41 then some (BitVec.ofNat 41 (w % 2 ^ nbits)) else none

/-- What the decoder reads from a word numbered as spec/opcode_table.json numbers it: one BUS41 word, bit 0 the least
significant (R100). -/
def decodeTableWord (nbits w : Nat) : Option Instr :=
  match tableBusWord nbits w with
  | none => none
  | some b => (decode b).toOption

end Sys2Proof
end

