-- ==== Sys2Proof/Machine/Arith.lean ====
section
/-! DEFINITION. The arithmetic of R9 to R12: exact integers, one rounding RND, saturation. -/

namespace Sys2Proof.Machine

/-- `RND(n, d)`: `n / d` to the nearest integer, ties away from zero (R11). R11 asks for `d > 0`; for `d = 0`, which no run
reaches, the result is a free value (log 8). -/
def rnd (n : Int) (d : Nat) : Int :=
  if d = 0 then Config.rndByZero n
  else n.sign * (((2 * n.natAbs + d) / (2 * d) : Nat) : Int)

/-- `clamp(x, lo, hi)` (R12). -/
def clamp (x lo hi : Int) : Int := max lo (min hi x)

/-- `sat32(x)` (R12). -/
def sat32 (x : Int) : Int := clamp x (-2147483648) 2147483647

/-- `u32(x)`: the 32-bit pattern of an integer (R9). -/
def u32 (x : Int) : Word := BitVec.ofInt 32 x

/-- `signed(mag, neg)`: the signed speed of a magnitude and a sign (R166). -/
def signedSpeed (mag : Word) (neg : Bool) : Int := if neg then -(mag.toNat : Int) else (mag.toNat : Int)

/-- `n mod d`. For `d = 0`, which no run reaches, the result is a free value (log 9). -/
def modulo (n d : Nat) : Nat := if d = 0 then Config.modByZero n else n % d

end Sys2Proof.Machine
end

