-- ==== Sys2Proof/Machine/Operands.lean ====
section
/-! DEFINITION. The operand forms: the output ports (R35), what a read of each register returns (R133, R105) and what a write
stores from its data (R104). -/

namespace Sys2Proof.Machine

/-- The 2-bit code of a direction (R36). -/
def Dir.code : Dir → BitVec 2
  | .stop => 0#2
  | .forward => 1#2
  | .backward => 2#2
  | .invalid => 3#2

/-- The 2-bit code of a selected direction pattern (R37). -/
def DirSel.code : DirSel → BitVec 2
  | .stop => 0#2
  | .fwd => 1#2
  | .bwd => 2#2

/-- The port `dir_out`, zero-extended to 8 bits (R35, R73). -/
def State.dirOut (s : State) : BitVec 8 :=
  match s.mc.dirsel with
  | .stop => s.regs.patStop
  | .fwd => s.regs.patFwd
  | .bwd => s.regs.patBwd

/-- The port `pwm_duty` (R35). -/
def State.pwmDutyPort (s : State) : Duty := s.mc.pwmDuty

/-- The port `pwm_freq` (R35). -/
def State.pwmFreqPort (s : State) : Word := s.mc.pwmFreqOut

/-- A one-bit field at bit `k` of a register. -/
def bitField (b : Bool) (k : Nat) : Word := (BitVec.ofBool b).setWidth 32 <<< k

/-- A field at bit `k` of a register. -/
def wordField {n : Nat} (x : BitVec n) (k : Nat) : Word := x.setWidth 32 <<< k

/-- ID: MAGIC, VERSION, NDIR, 0 (R47, R135). -/
def idWord (p : Params) : Word := 0x5145#16 ++ 0x01#8 ++ BitVec.ofNat 4 p.nDir ++ 0#4

/-- STATUS (R49, R138). -/
def statusWord (s : State) : Word :=
  bitField s.enc.run 0 ||| bitField s.mc.run 1 ||| bitField s.cap.err 4 ||| bitField s.flags.pub 5
    ||| bitField s.flags.inv 6 ||| bitField s.flags.encf 7 ||| bitField s.flags.mcf 8 ||| bitField s.flags.pidsat 9
    ||| bitField s.flags.dutysat 10

/-- ERR_CAUSE (R50, R140). -/
def errCauseWord (s : State) : Word :=
  wordField s.cap.code 0 ||| wordField s.cap.addr 8 ||| bitField s.cap.ovf 31

/-- ENC_DBG (R58, R171). -/
def encDbgWord (s : State) : Word :=
  wordField s.enc.hist 0 ||| wordField s.enc.dirLive.code 4 ||| bitField s.enc.lastNeg 8 ||| bitField s.enc.aQ 12
    ||| bitField s.enc.bQ 13

/-- MC_PAT (R67, R233). -/
def mcPatWord (s : State) : Word :=
  wordField s.regs.patFwd 0 ||| wordField s.regs.patBwd 8 ||| wordField s.regs.patStop 16

/-- MC_OUT (R73, R239). -/
def mcOutWord (s : State) : Word :=
  wordField s.mc.pwmDuty 0 ||| bitField s.mc.pendV 17 ||| wordField s.mc.dirsel.code 18 ||| wordField s.dirOut 20

/-- `RegRead`: the value a read of each register returns, from the state at the start of the cycle (R133, R105). -/
def regRead (s : State) : RegName → Word
  | .id => idWord s.params
  | .cmd => 0#32
  | .status => statusWord s
  | .errCause => errCauseWord s
  | .encCfg => bitField s.regs.quad 0
  | .encRes => s.regs.res.setWidth 32
  | .encSper => s.regs.sper
  | .encCount => s.enc.pubCount
  | .encDir => s.enc.snapDir.code.setWidth 32
  | .encSpeed => s.enc.snapSpeed
  | .encSspeed => u32 (signedSpeed s.enc.snapSpeed s.enc.snapNeg)
  | .encDbg => encDbgWord s
  | .mcTarget => s.regs.target
  | .mcKp => s.regs.kp
  | .mcKi => s.regs.ki
  | .mcKd => s.regs.kd
  | .mcMinDuty => s.regs.minDuty.setWidth 32
  | .mcMaxSpeed => s.regs.maxSpeed
  | .mcPeriod => s.regs.period
  | .mcPwmFreq => s.regs.pwmFreq
  | .mcPat => mcPatWord s
  | .mcSpeed => u32 (signedSpeed s.enc.pubSpeed s.enc.pubNeg)
  | .mcPrevErr => s.mc.prevErr
  | .mcIntegral => s.mc.integ
  | .mcOutput => s.mc.out
  | .mcDuty => s.mc.duty
  | .mcOut => mcOutWord s
  | .mcPwmFreqOut => s.mc.pwmFreqOut

/-- ENC_CFG.QUAD from write data: `wdata[0]` (R104, R172). -/
def quadOperand (v : Word) : Bool := v.getLsbD 0

/-- ENC_RES.RES from write data: `wdata[15:0]` (R104, R174). -/
def resOperand (v : Word) : BitVec 16 := v.extractLsb' 0 16

/-- MC_MIN_DUTY.MIN from write data: `min(wdata, 0x10000)` (R63, R104, R224). -/
def minDutyOperand (v : Word) : Duty := BitVec.ofNat 17 (min v.toNat 65536)

/-- The mask of the N_DIR low bits of a pattern byte: `2^N_DIR - 1` (R232). -/
def patMask (p : Params) : BitVec 8 := BitVec.ofNat 8 (2 ^ p.nDir - 1)

/-- The pattern byte at bit `k` of write data, masked to its low N_DIR bits (R104, R232). -/
def patOperand (p : Params) (v : Word) (k : Nat) : BitVec 8 := v.extractLsb' k 8 &&& patMask p

/-- Byte `k` of a register on a byte-addressed interconnect, at byte address `a + k`: bits `[8k+7 : 8k]`, little-endian
(R81). The bus itself moves whole words only. -/
def byteLane (v : Word) (k : Nat) : BitVec 8 := v.extractLsb' (8 * k) 8

end Sys2Proof.Machine
end

