-- ==== Sys2Proof/Machine/Encoder.lean ====
section
/-! DEFINITION. The quadrature encoder estimator: phases 1, 2 and 3 of a cycle (R151 to R165), and the procedures ENC_CLEAR and
ENC_INIT that the commands use (R178, R179). -/

namespace Sys2Proof.Machine

/-- A cycle being computed (R88): `n` is the state under construction, `set` and `clr` collect sticky flags, `aerr` is the
asynchronous error. -/
structure Cycle where
  n : State
  set : Sticky
  clr : Sticky
  aerr : Option ErrCode
deriving DecidableEq, Repr

/-- Replace the encoder state under construction. -/
def Cycle.withEnc (c : Cycle) (e : EncState) : Cycle := { c with n := c.n.withEnc e }

/-- Add nothing yet: the start of a cycle, `N <- S; SET <- {}; CLR <- {}; AERR <- none` (R88). -/
def cycleStart (s : State) : Cycle := { n := s, set := Sticky.none, clr := Sticky.none, aerr := none }

/-- Phase 1: the levels of this cycle become the previous levels of the next (R151). -/
def inputSampling (s : State) (c : Cycle) : Cycle :=
  c.withEnc { c.n.enc with aQ := s.pins.a, bQ := s.pins.b }

/-- The pair `2 * A + B` (R154). -/
def pairOf (a b : Bool) : BitVec 2 := BitVec.ofBool a ++ BitVec.ofBool b

/-- `eA`: an edge on channel A (R152). -/
def edgeA (s : State) : Bool := s.pins.a != s.enc.aQ

/-- `eB`: an edge on channel B, in quadrature mode only (R152). -/
def edgeB (s : State) : Bool := s.regs.quad && (s.pins.b != s.enc.bQ)

/-- `ne`: the edges of this cycle, 0, 1 or 2 (R152). -/
def edgeCount (s : State) : Nat := (edgeA s).toNat + (edgeB s).toNat

/-- The direction table, as the document lists it (R156). -/
def directionTable : List Dir :=
  [.stop, .backward, .forward, .invalid, .forward, .stop, .invalid, .backward,
   .backward, .invalid, .stop, .forward, .invalid, .forward, .backward, .stop]

/-- `TABLE[h]` (R156). -/
def tableDir (h : BitVec 4) : Dir := directionTable.getD h.toNat .stop

/-- The new history: the current pair becomes the previous one (R155). -/
def nextHist (h : BitVec 4) (pair : BitVec 2) : BitVec 4 := h.extractLsb' 0 2 ++ pair

/-- Last known sign after latching a direction (R158). -/
def nextLastNeg (d : Dir) (old : Bool) : Bool :=
  match d with
  | .forward => false
  | .backward => true
  | .stop => old
  | .invalid => old

/-- Phase 2, ENC_EDGE: history, direction latch, last sign, INVALID flag (quadrature mode, R155, R157 to R159) and the tick
counter (both modes, R160, R161). Runs while the encoder runs. -/
def encEdge (s : State) (c : Cycle) : Cycle :=
  if edgeCount s = 0 then c
  else
    let counted := { c.n.enc with count := s.enc.count + BitVec.ofNat 32 (edgeCount s) }
    if s.regs.quad then
      let h := nextHist s.enc.hist (pairOf s.pins.a s.pins.b)
      let d := tableDir h
      { c with
        n := c.n.withEnc { counted with hist := h, dirLive := d, lastNeg := nextLastNeg d s.enc.lastNeg }
        set := if d = .invalid then { c.set with inv := true } else c.set }
    else c.withEnc counted

/-- Edges per resolution unit: 4 in quadrature mode, 2 in single-channel mode (R163). -/
def edgesPerUnit (quad : Bool) : Nat := if quad then 4 else 2

/-- The speed magnitude of `delta` edges in a sampling period, unsigned Q16.16, saturated at 2^31 - 1 (R163). -/
def speedMag (p : Params) (r : Regs) (delta : Word) : Word :=
  BitVec.ofNat 32
    (min (rnd (delta.toNat * p.fClk * 65536 : Nat) (r.sper.toNat * edgesPerUnit r.quad * r.res.toNat)).toNat 2147483647)

/-- The published sign (R165). -/
def publishedNeg (quad : Bool) (d : Dir) (lastNeg : Bool) : Bool :=
  match d with
  | .backward => quad
  | .invalid => quad && lastNeg
  | .forward => false
  | .stop => false

/-- Phase 3, ENC_SAMPLE: the sample counter (R162) and, at its strobe, the publication (R163 to R165). Runs while the encoder
runs. -/
def encSample (s : State) (c : Cycle) : Cycle :=
  if s.enc.scnt.toNat + 1 = s.regs.sper.toNat then
    { c with
      n := c.n.withEnc
        { c.n.enc with
          pubCount := c.n.enc.count
          pubDir := c.n.enc.dirLive
          pubSpeed := speedMag s.params s.regs (c.n.enc.count - s.enc.base)
          pubNeg := publishedNeg s.regs.quad c.n.enc.dirLive c.n.enc.lastNeg
          base := c.n.enc.count
          scnt := 0#32 }
      set := { c.set with pub := true } }
  else c.withEnc { c.n.enc with scnt := s.enc.scnt + 1#32 }

/-- `idle_dir(q)`: STOP in quadrature mode, FORWARD in single-channel mode (R36). -/
def idleDir (quad : Bool) : Dir := if quad then .stop else .forward

/-- `ENC_CLEAR(N, q)` (R179): `enc_run`, `a_q` and `b_q` are not touched. -/
def encClear (e : EncState) (quad : Bool) : EncState :=
  { run := e.run, aQ := e.aQ, bQ := e.bQ, hist := 0#4, dirLive := idleDir quad, lastNeg := false, count := 0#32,
    base := 0#32, scnt := 0#32, pubCount := 0#32, pubDir := idleDir quad, pubSpeed := 0#32, pubNeg := false,
    snapDir := idleDir quad, snapSpeed := 0#32, snapNeg := false }

/-- `ENC_INIT(S, in, N)` (R178): cleared, running, the history filled with the pair of this cycle's levels. -/
def encInit (s : State) (e : EncState) : EncState :=
  { encClear e s.regs.quad with
    hist := pairOf s.pins.a s.pins.b ++ pairOf s.pins.a s.pins.b
    run := true }

end Sys2Proof.Machine
end

