-- ==== Sys2Proof/Machine/Loop.lean ====
section
/-! DEFINITION. The PID velocity control loop: phase 4 of a cycle (R200 to R211), the procedures MC_INIT and MC_CLEAR (R212,
R213), and phase 5, the encoder hardware fault, which stops both units (R182). -/

namespace Sys2Proof.Machine

/-- What one control tick computes (R203 to R207): the measured speed, the error, the integral and the output after `sat32`, the
unbounded signed duty, and whether a `sat32` changed its argument (R209). -/
structure Tick where
  cur : Int
  err : Int
  integ : Int
  out : Int
  du : Int
  pidSat : Bool
deriving DecidableEq, Repr

/-- The unsaturated output of R206 for the error `e` and the integral `i`. -/
def pidOutput (s : State) (e i : Int) : Int :=
  rnd (s.regs.kp.toInt * e * s.regs.period.toNat + s.regs.ki.toInt * i * s.regs.period.toNat
      + s.regs.kd.toInt * (e - s.mc.prevErr.toInt) * s.params.fClk)
    (65536 * s.regs.period.toNat)

/-- The signed duty of R207 for the output `o`. -/
def signedDuty (r : Regs) (o : Int) : Int :=
  rnd (o * (65536 - (r.minDuty.toNat : Int))) r.maxSpeed.toNat + r.minDuty.toNat

/-- The computation of a control tick, from the state at the start of the cycle (R203 to R207, R209). -/
def controlTick (s : State) : Tick :=
  let cur := signedSpeed s.enc.pubSpeed s.enc.pubNeg
  let eRaw := s.regs.target.toInt - cur
  let e := sat32 eRaw
  let iRaw := s.mc.integ.toInt + rnd (e * s.regs.period.toNat) s.params.fClk
  let i := sat32 iRaw
  let oRaw := pidOutput s e i
  let o := sat32 oRaw
  { cur := cur, err := e, integ := i, out := o, du := signedDuty s.regs o
    pidSat := decide (e ≠ eRaw ∨ i ≠ iRaw ∨ o ≠ oRaw) }

/-- The direction switch: the pattern of the duty's sign when the signs of duty and measured speed disagree (R210). -/
def nextDirsel (du cur : Int) (old : DirSel) : DirSel :=
  if du.sign * cur.sign = -1 then (if 0 < du then .fwd else .bwd) else old

/-- The PWM duty of a signed duty: its magnitude, clamped to 1.0 (R211). -/
def pwmOf (du : Int) : Duty := BitVec.ofNat 17 (min du.natAbs 65536)

/-- The pending-duty step (R202). -/
def applyPending (s : State) (m : McState) : McState :=
  if s.mc.pendV then { m with pwmDuty := s.mc.pendDuty, pendV := false } else m

/-- What a control tick stores in the loop's state (R208, R210, R211). -/
def storeTick (t : Tick) (s : State) (m : McState) : McState :=
  { m with
    prevErr := u32 t.err
    integ := u32 t.integ
    out := u32 t.out
    duty := u32 (sat32 t.du)
    dirsel := nextDirsel t.du t.cur s.mc.dirsel
    pendDuty := pwmOf t.du
    pendV := true }

/-- The flags a control tick sets (R209, R211). -/
def tickFlags (t : Tick) (f : Sticky) : Sticky :=
  { f with pidsat := f.pidsat || t.pidSat, dutysat := f.dutysat || decide (65536 < t.du.natAbs) }

/-- Phase 4, MC_CYCLE: the pending duty, the control tick when the period counter is 0, the counter (R201). Runs while the loop
runs. -/
def mcCycle (s : State) (c : Cycle) : Cycle :=
  let m := applyPending s c.n.mc
  let next : Word := BitVec.ofNat 32 (modulo (s.mc.mcnt.toNat + 1) s.regs.period.toNat)
  if s.mc.mcnt = 0#32 then
    { c with
      n := c.n.withMc { storeTick (controlTick s) s m with mcnt := next }
      set := tickFlags (controlTick s) c.set }
  else { c with n := c.n.withMc { m with mcnt := next } }

/-- `MC_CLEAR(N)` on the loop's state: `pwm_freq_out` is kept (R213). -/
def mcClear (m : McState) : McState :=
  { run := false, mcnt := 0#32, prevErr := 0#32, integ := 0#32, out := 0#32, duty := 0#32, dirsel := .stop,
    pwmDuty := 0#17, pendV := false, pendDuty := 0#17, pwmFreqOut := m.pwmFreqOut }

/-- `MC_CLEAR(N)`: the loop's state and the target (R213). -/
def loopClear (n : State) : State :=
  (n.withMc (mcClear n.mc)).withRegs { n.regs with target := 0#32 }

/-- The loop's part of `MC_INIT(S, in, N)`: `pwm_duty` is not written (R212). -/
def mcInit (s : State) (m : McState) : McState :=
  { run := true, mcnt := 0#32, prevErr := 0#32, integ := 0#32, out := 0#32, duty := 0#32, dirsel := .fwd,
    pwmDuty := m.pwmDuty, pendV := false, pendDuty := 0#17, pwmFreqOut := s.regs.pwmFreq }

/-- `MC_INIT(S, in, N)`: a stopped encoder is started with the loop (R212). -/
def loopInit (s : State) (n : State) : State :=
  (if s.enc.run then n else n.withEnc (encInit s n.enc)).withMc (mcInit s n.mc)

/-- Phase 5, ENC_FAULT: the encoder stops, its published fields stay, a running loop is cleared (R182). Runs while the encoder
runs and `enc_fault = 1`. -/
def encFault (s : State) (c : Cycle) : Cycle :=
  let n := c.n.withEnc { c.n.enc with run := false }
  { c with
    n := if s.mc.run then loopClear n else n
    set := { c.set with encf := true, mcf := c.set.mcf || s.mc.run }
    aerr := some .encHwFault }

end Sys2Proof.Machine
end

