-- ==== Sys2Proof/Machine/Ops.lean ====
section
/-! DEFINITION. The shared operations of a cycle (R88): the block's own phases, the error of a transaction and its capture
(R303 to R306), the return from an error (R142), reset (R350), the checks a transaction must pass (R304), the read and write
cycles (R130), and taking the inputs of the next cycle. -/

namespace Sys2Proof.Machine

/-- Phases 1 to 5 of R88: what the block does in a cycle whatever the host does. -/
def ownPhases (s : State) : Cycle :=
  let c1 := inputSampling s (cycleStart s)
  let c2 := if s.enc.run then encEdge s c1 else c1
  let c3 := if s.enc.run then encSample s c2 else c2
  let c4 := if s.mc.run then mcCycle s c3 else c3
  if s.enc.run && s.pins.fault then encFault s c4 else c4

/-- `capture(code, a)`: the first error since the last clear is kept, a later one sets OVF (R306). -/
def capture (c : ErrCapture) (code : ErrCode) (a : Addr) : ErrCapture :=
  if c.err then { c with ovf := true } else { err := true, code := code.code, addr := a, ovf := c.ovf }

/-- Capture an asynchronous error, with ADDR 0, if there is one (R88 phase 8, R307). -/
def captureAsync (aerr : Option ErrCode) (c : ErrCapture) : ErrCapture :=
  match aerr with
  | none => c
  | some e => capture c e 0#8

/-- Phases 7 and 8 without a bus error: the sticky flags, then the capture of an asynchronous error (R88). -/
def finish (s : State) (c : Cycle) : State :=
  (c.n.withFlags (stickyNext s.flags c.clr c.set)).withCap (captureAsync c.aerr c.n.cap)

/-- A cycle without a transaction (R144): the own phases, `bus_rdata = 0`, `bus_err = 0`. -/
def idleCycle (s : State) : State :=
  let c := ownPhases s
  finish s { c with n := c.n.withBus BusResp.idle }

/-- TAKING AN ERROR, `raise BusError(code)` by a transaction at address `a` (R303, R308): the own phases as without the
transaction, `bus_rdata = 0`, `bus_err = 1`, and the capture of the code after an asynchronous one (R305). -/
def busErrorCycle (code : ErrCode) (a : Addr) (s : State) : State :=
  let t := idleCycle s
  (t.withBus { rdata := 0#32, err := true }).withCap (capture t.cap code a)

/-- RETURN FROM AN ERROR: CLR_ERR empties the record (R142, R309). -/
def clearErr (n : State) : State := n.withCap ErrCapture.none

/-- `N <- RESET_STATE` (R350, R143): every field of the block at its reset value and the response 0, 0 (R353, R354). The
parameters are the instance's, the pins and the stimulus the environment's: none of them is the block's state. -/
def resetBlock (s : State) : State :=
  { params := s.params, enc := EncState.reset, mc := McState.reset, regs := Regs.reset, flags := Sticky.none,
    cap := ErrCapture.none, bus := BusResp.idle, pins := s.pins, stim := s.stim }

/-- A performed read of value `v` with the read's side effect on the state under construction (R130). -/
def readCycle (v : Word) (effect : State → State) (s : State) : State :=
  let c := ownPhases s
  finish s { c with n := (effect c.n).withBus { rdata := v, err := false } }

/-- A performed write: its effect on the state under construction after phases 1 to 5, the sticky flags it clears, the
response 0, 0 (R130). -/
def writeCycle (clr : Sticky) (effect : State → State) (s : State) : State :=
  let c := ownPhases s
  finish s { c with n := (effect c.n).withBus BusResp.idle, clr := clr }

/-- A read of a register, `RD <reg>` (R131, R133). -/
def readRegister (r : RegName) (s : State) : State := readCycle (regRead s r) id s

/-- The check of a write to a RW-ES register (R304 line 5, R46). -/
def checkEncStopped (s : State) : Option ErrCode := if s.enc.run then some .busyConfig else none

/-- The check of a write to a RW-MS register (R304 line 6, R46). -/
def checkMcStopped (s : State) : Option ErrCode := if s.mc.run then some .busyConfig else none

/-- The checks of ENC_START, in order (R180, R304). -/
def checkEncStart (s : State) : Option ErrCode :=
  if s.enc.run then some .alreadyRunning
  else if s.regs.res = 0#16 then some .cfgResZero
  else if s.regs.sper = 0#32 then some .cfgSperZero
  else if s.pins.fault then some .hwFaultAtStart
  else none

/-- The check of ENC_STOP (R181, R304). -/
def checkEncStop (s : State) : Option ErrCode := if s.mc.run then some .encOwned else none

/-- The checks of MC_START, in order (R214, R304). -/
def checkMcStart (s : State) : Option ErrCode :=
  if s.mc.run then some .alreadyRunning
  else if !s.enc.run && s.regs.res == 0#16 then some .cfgResZero
  else if !s.enc.run && s.regs.sper == 0#32 then some .cfgSperZero
  else if s.regs.period.toNat < 2 then some .cfgMcperSmall
  else if s.regs.maxSpeed = 0#32 then some .cfgMaxspdZero
  else if s.pins.fault then some .hwFaultAtStart
  else none

/-- A write or command to register `r` that passes or fails its check (R130): a failed one changes nothing but the capture
(R303), a performed one has its effect. -/
def checkedWrite (r : RegName) (check : Option ErrCode) (effect : State → State) (s : State) :
    Host.Outcome State Fault Refusal :=
  match check with
  | some code => .next (busErrorCycle code r.addr s)
  | none => .next (writeCycle Sticky.none effect s)

/-- Take the inputs of the next cycle: the levels become the pins of the present cycle, and the rest of the stimulus
stays (R13). None where the stimulus has ended (R15). -/
def takeInputs (s : State) : Option (CycleIn × State) :=
  match s.stim with
  | [] => none
  | c :: rest => some (c, s.withInputs c.pins rest)

/-- Present a bus word in the very next cycle, without reset and with the levels as they are (log 6). -/
def presentWord (s : State) (w : BusWord) : State :=
  s.withInputs s.pins ({ rst := false, pins := s.pins, req := some w } :: s.stim)

end Sys2Proof.Machine
end

