-- ==== Sys2Proof/Machine/BusControl.lean ====
section
/-! DEFINITION. The meanings of the operations on the control registers and the commands NOP, CLR_ERR and SOFT_RESET
(40_bus_and_control.md). -/

namespace Sys2Proof.Machine

/-- `RD ID` (R135). -/
def execRdId (s : State) : Host.Outcome State Fault Refusal := .next (readRegister .id s)

/-- `RD CMD` (R136). -/
def execRdCmd (s : State) : Host.Outcome State Fault Refusal := .next (readRegister .cmd s)

/-- `RD STATUS` (R138). -/
def execRdStatus (s : State) : Host.Outcome State Fault Refusal := .next (readRegister .status s)

/-- `RD ERR_CAUSE` (R140). -/
def execRdErrCause (s : State) : Host.Outcome State Fault Refusal := .next (readRegister .errCause s)

/-- `WR STATUS, v` (R139): clears the flags of bits 5 to 10 written with 1, never an error. -/
def execWrStatus (v : Word) (s : State) : Host.Outcome State Fault Refusal :=
  .next (writeCycle (statusClears v) id s)

/-- `CMD NOP` (R141). -/
def execCmdNop (s : State) : Host.Outcome State Fault Refusal := .next (writeCycle Sticky.none id s)

/-- `CMD CLR_ERR` (R142): the clear comes before the capture of an asynchronous error of the same cycle. -/
def execCmdClrErr (s : State) : Host.Outcome State Fault Refusal := .next (writeCycle Sticky.none clearErr s)

/-- `CMD SOFT_RESET` (R143): the reset state replaces what phases 1 to 6 wrote, and phases 7 and 8 do not run. -/
def execCmdSoftReset (s : State) : Host.Outcome State Fault Refusal := .next (resetBlock s)

end Sys2Proof.Machine
end

