-- ==== Sys2Proof/Machine/EncoderOps.lean ====
section
/-! DEFINITION. The meanings of the host operations on the encoder (41_encoder.md, R167 to R181). -/

namespace Sys2Proof.Machine

/-- `RD ENC_CFG` (R173). -/
def execRdEncCfg (s : State) : Host.Outcome State Fault Refusal := .next (readRegister .encCfg s)

/-- `RD ENC_RES` (R175). -/
def execRdEncRes (s : State) : Host.Outcome State Fault Refusal := .next (readRegister .encRes s)

/-- `RD ENC_SPER` (R177). -/
def execRdEncSper (s : State) : Host.Outcome State Fault Refusal := .next (readRegister .encSper s)

/-- The snapshot a read of ENC_COUNT takes, from the state at the start of the cycle (R167). -/
def takeSnapshot (s : State) (n : State) : State :=
  n.withEnc { n.enc with snapDir := s.enc.pubDir, snapSpeed := s.enc.pubSpeed, snapNeg := s.enc.pubNeg }

/-- `RD ENC_COUNT` (R167): the published count, and the snapshot. -/
def execRdEncCount (s : State) : Host.Outcome State Fault Refusal :=
  .next (readCycle (regRead s .encCount) (takeSnapshot s) s)

/-- `RD ENC_DIR` (R168). -/
def execRdEncDir (s : State) : Host.Outcome State Fault Refusal := .next (readRegister .encDir s)

/-- `RD ENC_SPEED` (R169). -/
def execRdEncSpeed (s : State) : Host.Outcome State Fault Refusal := .next (readRegister .encSpeed s)

/-- `RD ENC_SSPEED` (R170). -/
def execRdEncSspeed (s : State) : Host.Outcome State Fault Refusal := .next (readRegister .encSspeed s)

/-- `RD ENC_DBG` (R171). -/
def execRdEncDbg (s : State) : Host.Outcome State Fault Refusal := .next (readRegister .encDbg s)

/-- The effect of a write to ENC_CFG: the mode, and the three directions at `idle_dir` of the new mode (R172). -/
def writeEncCfg (q : Bool) (n : State) : State :=
  (n.withRegs { n.regs with quad := q }).withEnc
    { n.enc with dirLive := idleDir q, pubDir := idleDir q, snapDir := idleDir q }

/-- `WR ENC_CFG, v` (R172). -/
def execWrEncCfg (v : Word) (s : State) : Host.Outcome State Fault Refusal :=
  checkedWrite .encCfg (checkEncStopped s) (writeEncCfg (quadOperand v)) s

/-- `WR ENC_RES, v` (R174). -/
def execWrEncRes (v : Word) (s : State) : Host.Outcome State Fault Refusal :=
  checkedWrite .encRes (checkEncStopped s) (fun n => n.withRegs { n.regs with res := resOperand v }) s

/-- `WR ENC_SPER, v` (R176). -/
def execWrEncSper (v : Word) (s : State) : Host.Outcome State Fault Refusal :=
  checkedWrite .encSper (checkEncStopped s) (fun n => n.withRegs { n.regs with sper := v }) s

/-- `CMD ENC_START` (R180). -/
def execCmdEncStart (s : State) : Host.Outcome State Fault Refusal :=
  checkedWrite .cmd (checkEncStart s) (fun n => n.withEnc (encInit s n.enc)) s

/-- `CMD ENC_STOP` (R181). -/
def execCmdEncStop (s : State) : Host.Outcome State Fault Refusal :=
  checkedWrite .cmd (checkEncStop s) (fun n => n.withEnc (encClear { n.enc with run := false } s.regs.quad)) s

end Sys2Proof.Machine
end

