-- ==== Sys2Proof/Machine/LoopOps.lean ====
section
/-! DEFINITION. The meanings of the host operations on the control loop (42_pid.md, R214 to R240). -/

namespace Sys2Proof.Machine

/-- `RD MC_TARGET` (R217). -/
def execRdMcTarget (s : State) : Host.Outcome State Fault Refusal := .next (readRegister .mcTarget s)

/-- `RD MC_KP` (R219). -/
def execRdMcKp (s : State) : Host.Outcome State Fault Refusal := .next (readRegister .mcKp s)

/-- `RD MC_KI` (R221). -/
def execRdMcKi (s : State) : Host.Outcome State Fault Refusal := .next (readRegister .mcKi s)

/-- `RD MC_KD` (R223). -/
def execRdMcKd (s : State) : Host.Outcome State Fault Refusal := .next (readRegister .mcKd s)

/-- `RD MC_MIN_DUTY` (R225). -/
def execRdMcMinDuty (s : State) : Host.Outcome State Fault Refusal := .next (readRegister .mcMinDuty s)

/-- `RD MC_MAX_SPEED` (R227). -/
def execRdMcMaxSpeed (s : State) : Host.Outcome State Fault Refusal := .next (readRegister .mcMaxSpeed s)

/-- `RD MC_PERIOD` (R229). -/
def execRdMcPeriod (s : State) : Host.Outcome State Fault Refusal := .next (readRegister .mcPeriod s)

/-- `RD MC_PWM_FREQ` (R231). -/
def execRdMcPwmFreq (s : State) : Host.Outcome State Fault Refusal := .next (readRegister .mcPwmFreq s)

/-- `RD MC_PAT` (R233). -/
def execRdMcPat (s : State) : Host.Outcome State Fault Refusal := .next (readRegister .mcPat s)

/-- `RD MC_SPEED` (R234). -/
def execRdMcSpeed (s : State) : Host.Outcome State Fault Refusal := .next (readRegister .mcSpeed s)

/-- `RD MC_PREV_ERR` (R235). -/
def execRdMcPrevErr (s : State) : Host.Outcome State Fault Refusal := .next (readRegister .mcPrevErr s)

/-- `RD MC_INTEGRAL` (R236). -/
def execRdMcIntegral (s : State) : Host.Outcome State Fault Refusal := .next (readRegister .mcIntegral s)

/-- `RD MC_OUTPUT` (R237). -/
def execRdMcOutput (s : State) : Host.Outcome State Fault Refusal := .next (readRegister .mcOutput s)

/-- `RD MC_DUTY` (R238). -/
def execRdMcDuty (s : State) : Host.Outcome State Fault Refusal := .next (readRegister .mcDuty s)

/-- `RD MC_OUT` (R239). -/
def execRdMcOut (s : State) : Host.Outcome State Fault Refusal := .next (readRegister .mcOut s)

/-- `RD MC_PWM_FREQ_OUT` (R240). -/
def execRdMcPwmFreqOut (s : State) : Host.Outcome State Fault Refusal := .next (readRegister .mcPwmFreqOut s)

/-- `WR MC_TARGET, v` (R216): legal in every state, never an error. -/
def execWrMcTarget (v : Word) (s : State) : Host.Outcome State Fault Refusal :=
  .next (writeCycle Sticky.none (fun n => n.withRegs { n.regs with target := v }) s)

/-- `WR MC_KP, v` (R218). -/
def execWrMcKp (v : Word) (s : State) : Host.Outcome State Fault Refusal :=
  checkedWrite .mcKp (checkMcStopped s) (fun n => n.withRegs { n.regs with kp := v }) s

/-- `WR MC_KI, v` (R220). -/
def execWrMcKi (v : Word) (s : State) : Host.Outcome State Fault Refusal :=
  checkedWrite .mcKi (checkMcStopped s) (fun n => n.withRegs { n.regs with ki := v }) s

/-- `WR MC_KD, v` (R222). -/
def execWrMcKd (v : Word) (s : State) : Host.Outcome State Fault Refusal :=
  checkedWrite .mcKd (checkMcStopped s) (fun n => n.withRegs { n.regs with kd := v }) s

/-- `WR MC_MIN_DUTY, v` (R224). -/
def execWrMcMinDuty (v : Word) (s : State) : Host.Outcome State Fault Refusal :=
  checkedWrite .mcMinDuty (checkMcStopped s) (fun n => n.withRegs { n.regs with minDuty := minDutyOperand v }) s

/-- `WR MC_MAX_SPEED, v` (R226). -/
def execWrMcMaxSpeed (v : Word) (s : State) : Host.Outcome State Fault Refusal :=
  checkedWrite .mcMaxSpeed (checkMcStopped s) (fun n => n.withRegs { n.regs with maxSpeed := v }) s

/-- `WR MC_PERIOD, v` (R228). -/
def execWrMcPeriod (v : Word) (s : State) : Host.Outcome State Fault Refusal :=
  checkedWrite .mcPeriod (checkMcStopped s) (fun n => n.withRegs { n.regs with period := v }) s

/-- `WR MC_PWM_FREQ, v` (R230). -/
def execWrMcPwmFreq (v : Word) (s : State) : Host.Outcome State Fault Refusal :=
  checkedWrite .mcPwmFreq (checkMcStopped s) (fun n => n.withRegs { n.regs with pwmFreq := v }) s

/-- The effect of a write to MC_PAT: the three pattern bytes, masked to N_DIR bits (R232). -/
def writeMcPat (v : Word) (n : State) : State :=
  n.withRegs { n.regs with
    patFwd := patOperand n.params v 0
    patBwd := patOperand n.params v 8
    patStop := patOperand n.params v 16 }

/-- `WR MC_PAT, v` (R232). -/
def execWrMcPat (v : Word) (s : State) : Host.Outcome State Fault Refusal :=
  checkedWrite .mcPat (checkMcStopped s) (writeMcPat v) s

/-- `CMD MC_START` (R214). -/
def execCmdMcStart (s : State) : Host.Outcome State Fault Refusal :=
  checkedWrite .cmd (checkMcStart s) (loopInit s) s

/-- `CMD MC_STOP` (R215). -/
def execCmdMcStop (s : State) : Host.Outcome State Fault Refusal := .next (writeCycle Sticky.none loopClear s)

end Sys2Proof.Machine
end

