-- ==== Sys2Proof/Machine/Dispatch.lean ====
section
/-! DEFINITION. The dispatch of an instruction to its meaning, one arm per constructor of Instr. -/

namespace Sys2Proof.Machine

/-- One whole cycle in which the host issues the instruction, at the levels of the pins (R88, R130; log 18). -/
def exec (i : Instr) (s : State) : Host.Outcome State Fault Refusal :=
  match i with
  | .rdId => Sys2Proof.Machine.execRdId s
  | .rdCmd => Sys2Proof.Machine.execRdCmd s
  | .rdStatus => Sys2Proof.Machine.execRdStatus s
  | .rdErrCause => Sys2Proof.Machine.execRdErrCause s
  | .rdEncCfg => Sys2Proof.Machine.execRdEncCfg s
  | .rdEncRes => Sys2Proof.Machine.execRdEncRes s
  | .rdEncSper => Sys2Proof.Machine.execRdEncSper s
  | .rdEncCount => Sys2Proof.Machine.execRdEncCount s
  | .rdEncDir => Sys2Proof.Machine.execRdEncDir s
  | .rdEncSpeed => Sys2Proof.Machine.execRdEncSpeed s
  | .rdEncSspeed => Sys2Proof.Machine.execRdEncSspeed s
  | .rdEncDbg => Sys2Proof.Machine.execRdEncDbg s
  | .rdMcTarget => Sys2Proof.Machine.execRdMcTarget s
  | .rdMcKp => Sys2Proof.Machine.execRdMcKp s
  | .rdMcKi => Sys2Proof.Machine.execRdMcKi s
  | .rdMcKd => Sys2Proof.Machine.execRdMcKd s
  | .rdMcMinDuty => Sys2Proof.Machine.execRdMcMinDuty s
  | .rdMcMaxSpeed => Sys2Proof.Machine.execRdMcMaxSpeed s
  | .rdMcPeriod => Sys2Proof.Machine.execRdMcPeriod s
  | .rdMcPwmFreq => Sys2Proof.Machine.execRdMcPwmFreq s
  | .rdMcPat => Sys2Proof.Machine.execRdMcPat s
  | .rdMcSpeed => Sys2Proof.Machine.execRdMcSpeed s
  | .rdMcPrevErr => Sys2Proof.Machine.execRdMcPrevErr s
  | .rdMcIntegral => Sys2Proof.Machine.execRdMcIntegral s
  | .rdMcOutput => Sys2Proof.Machine.execRdMcOutput s
  | .rdMcDuty => Sys2Proof.Machine.execRdMcDuty s
  | .rdMcOut => Sys2Proof.Machine.execRdMcOut s
  | .rdMcPwmFreqOut => Sys2Proof.Machine.execRdMcPwmFreqOut s
  | .wrStatus v => Sys2Proof.Machine.execWrStatus v s
  | .wrEncCfg v => Sys2Proof.Machine.execWrEncCfg v s
  | .wrEncRes v => Sys2Proof.Machine.execWrEncRes v s
  | .wrEncSper v => Sys2Proof.Machine.execWrEncSper v s
  | .wrMcTarget v => Sys2Proof.Machine.execWrMcTarget v s
  | .wrMcKp v => Sys2Proof.Machine.execWrMcKp v s
  | .wrMcKi v => Sys2Proof.Machine.execWrMcKi v s
  | .wrMcKd v => Sys2Proof.Machine.execWrMcKd v s
  | .wrMcMinDuty v => Sys2Proof.Machine.execWrMcMinDuty v s
  | .wrMcMaxSpeed v => Sys2Proof.Machine.execWrMcMaxSpeed v s
  | .wrMcPeriod v => Sys2Proof.Machine.execWrMcPeriod v s
  | .wrMcPwmFreq v => Sys2Proof.Machine.execWrMcPwmFreq v s
  | .wrMcPat v => Sys2Proof.Machine.execWrMcPat v s
  | .cmdNop => Sys2Proof.Machine.execCmdNop s
  | .cmdEncStart => Sys2Proof.Machine.execCmdEncStart s
  | .cmdEncStop => Sys2Proof.Machine.execCmdEncStop s
  | .cmdMcStart => Sys2Proof.Machine.execCmdMcStart s
  | .cmdMcStop => Sys2Proof.Machine.execCmdMcStop s
  | .cmdClrErr => Sys2Proof.Machine.execCmdClrErr s
  | .cmdSoftReset => Sys2Proof.Machine.execCmdSoftReset s

end Sys2Proof.Machine
end

