-- ==== Sys2Proof/Machine/Step.lean ====
section
/-! DEFINITION. One step of the machine: one clock cycle with the inputs the stimulus gives it (R13, R88). -/

namespace Sys2Proof.Machine

/-- One clock cycle (R88). With `rst = 1` the reset state, whatever else the inputs are (R31, R354); without a transaction the
idle cycle (R144); an illegal word raises its bus error (R102, R106, R303); a decoded instruction is executed. -/
def step (s : State) : Host.Outcome State Fault Refusal :=
  match takeInputs s with
  | none => .fault .stimulusEnded
  | some (c, s1) =>
    if c.rst then .next (resetBlock s1)
    else
      match c.req with
      | none => .next (idleCycle s1)
      | some w =>
        match decode w with
        | .ok i => exec i s1
        | .error e => .next (busErrorCycle e (busAddr w) s1)

/-- `s` with the word presented on the bus in the very next cycle (log 6, log 7). A number that is no 41-bit word leaves `s`. -/
def State.withFetchWord (s : State) (nbits w : Nat) : State :=
  match tableBusWord nbits w with
  | none => s
  | some b => presentWord s b

end Sys2Proof.Machine
end

