-- ==== Sys2Proof/WellFormed.lean ====
section
/-! DEFINITION. Well-formedness: the checks an instance's parameters and an instruction must pass. The stimulus language has
its own check in Machine/Stimulus.lean. -/

namespace Sys2Proof

/-- The legal parameters of R6: `1 <= F_CLK <= 2^32 - 1` and `1 <= N_DIR <= 8`. -/
abbrev Params.wf (p : Params) : Prop :=
  (1 ≤ p.fClk ∧ p.fClk ≤ 4294967295) ∧ (1 ≤ p.nDir ∧ p.nDir ≤ 8)

/-- Every instruction is well formed: the only operand is a write's 32-bit data word, and every 32-bit value is legal for
every register, reserved bits being ignored (R46, R104). The type `Word` already says all there is to check. -/
def Instr.wf : Instr → Bool := fun _ => true

end Sys2Proof
end

