-- ==== Sys2Proof/Safety.lean ====
section
/-! DEFINITION. What is observed of a run (R15), and the states a run can be in: the invariant of the block, with the rule each
clause rests on. Claims are stated in these terms. -/

namespace Sys2Proof.Machine

/-- What one cycle shows outside: the bus response and the output ports (R13, R15). -/
structure Observation where
  rdata : Word
  err : Bool
  dirOut : BitVec 8
  pwmDuty : Duty
  pwmFreq : Word
deriving DecidableEq, Repr

/-- The observation of the cycle from `s` to `t`: the ports are functions of the state at its start (R35), the response is
that of the cycle. -/
def observe (s t : State) : Observation :=
  { rdata := t.bus.rdata, err := t.bus.err, dirOut := s.dirOut, pwmDuty := s.pwmDutyPort, pwmFreq := s.pwmFreqPort }

/-- The observation of a run of at most `k` cycles, which ends where its stimulus ends (R15). -/
def observeRun : Nat → State → List Observation
  | 0, _ => []
  | k + 1, s =>
    match step s with
    | .next t => observe s t :: observeRun k t
    | .fault _ => []
    | .refused _ => []

/-- The encoder's part of the invariant. -/
abbrev State.EncInv (s : State) : Prop :=
  -- R162, R163: while it runs, RES and SPER are not 0 and the sample counter is below SPER
  (s.enc.run = true → s.regs.res ≠ 0#16 ∧ s.enc.scnt.toNat < s.regs.sper.toNat) ∧
  -- R183: while it runs in quadrature mode, the low half of the history is the pair of the previous levels
  (s.enc.run = true → s.regs.quad = true → s.enc.hist.extractLsb' 0 2 = pairOf s.enc.aQ s.enc.bQ) ∧
  -- R161, C4: in single-channel mode every direction is FORWARD
  (s.regs.quad = false → s.enc.dirLive = .forward ∧ s.enc.pubDir = .forward ∧ s.enc.snapDir = .forward) ∧
  -- R158, R165: a BACKWARD direction has the negative sign
  ((s.enc.dirLive = .backward → s.enc.lastNeg = true) ∧ (s.enc.pubDir = .backward → s.enc.pubNeg = true) ∧
    (s.enc.snapDir = .backward → s.enc.snapNeg = true)) ∧
  -- R41, R56: a speed magnitude is at most 2^31 - 1
  (s.enc.pubSpeed.toNat < 2147483648 ∧ s.enc.snapSpeed.toNat < 2147483648)

/-- The control loop's part of the invariant. -/
abbrev State.McInv (s : State) : Prop :=
  -- R200, R201, R207, R245: while the loop runs, so does the encoder, P >= 2, MAXS >= 1, mcnt < P, a pattern is selected
  (s.mc.run = true → s.enc.run = true ∧ 2 ≤ s.regs.period.toNat ∧ s.regs.maxSpeed ≠ 0#32 ∧
    s.mc.mcnt.toNat < s.regs.period.toNat ∧ s.mc.dirsel ≠ .stop) ∧
  -- R202: a pending duty waits exactly in the cycle after a tick
  (s.mc.run = true → s.mc.pendV = true → s.mc.mcnt = 1#32) ∧
  -- R200, R213, R245: while it is stopped, the outputs are neutral and the PID state is clear
  (s.mc.run = false → s.mc = { McState.reset with pwmFreqOut := s.mc.pwmFreqOut }) ∧
  -- R63, R211, R245: duties are at most 1.0
  (s.regs.minDuty.toNat ≤ 65536 ∧ s.mc.pwmDuty.toNat ≤ 65536 ∧ s.mc.pendDuty.toNat ≤ 65536) ∧
  -- R67: pattern bits at and above N_DIR are 0
  (s.regs.patFwd &&& patMask s.params = s.regs.patFwd ∧ s.regs.patBwd &&& patMask s.params = s.regs.patBwd ∧
    s.regs.patStop &&& patMask s.params = s.regs.patStop)

/-- The error capture's part of the invariant (R44, R301, R306, R307). -/
abbrev State.CapInv (s : State) : Prop :=
  (s.cap.err = false → s.cap = ErrCapture.none) ∧
  (s.cap.err = true → (1 ≤ s.cap.code.toNat ∧ s.cap.code.toNat ≤ 12) ∨ (s.cap.code = 0x10#8 ∧ s.cap.addr = 0#8)) ∧
  -- R303: an error response carries no data
  (s.bus.err = true → s.bus.rdata = 0#32)

/-- The invariant of the block: what holds in every state a run from reset can reach. -/
abbrev State.Inv (s : State) : Prop := s.params.wf ∧ s.EncInv ∧ s.McInv ∧ s.CapInv

end Sys2Proof.Machine
end

