-- ==== Sys2Proof/Certificates/Slice0/Obligations.lean ====
section
/-! DEFINITION. The statements about QEPID that the provers settle. Each docstring names the rule of spec/ it formalises. -/

namespace Sys2Proof.Claims

open Sys2Proof.Machine

/-- The 0 or 1 a flag stands for. -/
def bit (b : Bool) : Nat := if b then 1 else 0

/-- The code of a direction (R36). -/
def dirCode : Dir → Nat
  | .stop => 0
  | .forward => 1
  | .backward => 2
  | .invalid => 3

/-- The code of a selected direction pattern (R37). -/
def patternCode : DirSel → Nat
  | .stop => 0
  | .fwd => 1
  | .bwd => 2

/-- The pattern that stands on `dir_out` (R35). -/
def selectedPattern (s : State) : BitVec 8 :=
  if s.mc.dirsel = .fwd then s.regs.patFwd else if s.mc.dirsel = .bwd then s.regs.patBwd else s.regs.patStop

/-- The encoding `0:<a>:--------` of a read: every word with WE 0 and ADDR `a`, whatever its WDATA (R100, R131). -/
def readEncoding (a : Addr) (i : Instr) : Prop := ∀ d : Word, decode (0#1 ++ a ++ d) = .ok i

/-- The encoding `1:<a>:v` of a write of `v` (R100, R132). -/
def writeEncoding (a : Addr) (i : Word → Instr) : Prop := ∀ v : Word, decode (1#1 ++ a ++ v) = .ok (i v)

/-- The encoding `1:04:<opc>` of a command (R100, R101, R103). -/
def commandEncoding (opc : Word) (i : Instr) : Prop := decode (1#1 ++ 0x04#8 ++ opc) = .ok i

/-- A performed read (R130): what the cycle without a transaction gives, with the response `v`, no error. -/
def readAnswer (s : State) (v : Word) : State := { idleCycle s with bus := { rdata := v, err := false } }

/-- A refused transaction (R303, R306): what the cycle without a transaction gives, with the response 0, error, and the capture
of the code `code` and the address `a`: kept where no error is recorded, else OVF alone. -/
def errorAnswer (s : State) (code : BitVec 8) (a : Addr) : State :=
  { idleCycle s with
    bus := { rdata := 0#32, err := true }
    cap :=
      if (idleCycle s).cap.err then { (idleCycle s).cap with ovf := true }
      else { err := true, code := code, addr := a, ovf := (idleCycle s).cap.ovf } }

/-- The procedure CHECK of R304 on the fields of a word, by byte addresses, written apart from the decoder. -/
def hostCheck (s : State) (w : BusWord) : Option ErrCode :=
  let addr := (busAddr w).toNat
  let v := (busData w).toNat
  if addr % 4 ≠ 0 then some .unaligned
  else if (0x30 ≤ addr ∧ addr ≤ 0x3C) ∨ 0x80 ≤ addr then some .unmapped
  else if busWe w = false then none
  else if addr ∈ [0x00, 0x0C, 0x1C, 0x20, 0x24, 0x28, 0x2C, 0x64, 0x68, 0x6C, 0x70, 0x74, 0x78, 0x7C] then some .roWrite
  else if addr ∈ [0x10, 0x14, 0x18] ∧ s.enc.run = true then some .busyConfig
  else if addr ∈ [0x44, 0x48, 0x4C, 0x50, 0x54, 0x58, 0x5C, 0x60] ∧ s.mc.run = true then some .busyConfig
  else if addr ≠ 0x04 then none
  else if 256 ≤ v ∨ 7 ≤ v % 256 then some .illegalCmd
  else if v = 1 then
    if s.enc.run = true then some .alreadyRunning
    else if s.regs.res.toNat = 0 then some .cfgResZero
    else if s.regs.sper.toNat = 0 then some .cfgSperZero
    else if s.pins.fault = true then some .hwFaultAtStart
    else none
  else if v = 2 then if s.mc.run = true then some .encOwned else none
  else if v = 3 then
    if s.mc.run = true then some .alreadyRunning
    else if s.enc.run = false ∧ s.regs.res.toNat = 0 then some .cfgResZero
    else if s.enc.run = false ∧ s.regs.sper.toNat = 0 then some .cfgSperZero
    else if s.regs.period.toNat < 2 then some .cfgMcperSmall
    else if s.regs.maxSpeed.toNat = 0 then some .cfgMaxspdZero
    else if s.pins.fault = true then some .hwFaultAtStart
    else none
  else none

/-- The encoder state ENC_CLEAR leaves, at the levels of the pins, stopped or running, with the history `h` (R178, R179). -/
def clearedEncoder (s : State) (run : Bool) (h : BitVec 4) : EncState :=
  let idle := if s.regs.quad then Dir.stop else Dir.forward
  { run := run, aQ := s.pins.a, bQ := s.pins.b, hist := h, dirLive := idle, lastNeg := false, count := 0#32, base := 0#32,
    scnt := 0#32, pubCount := 0#32, pubDir := idle, pubSpeed := 0#32, pubNeg := false, snapDir := idle,
    snapSpeed := 0#32, snapNeg := false }

/-- The history `4 * p + p` of the pair `p = 2 * a + b` of the pins (R178). -/
def startHistory (s : State) : BitVec 4 := BitVec.ofNat 4 (5 * (2 * bit s.pins.a + bit s.pins.b))

/-- The loop state MC_CLEAR leaves: only `pwm_freq_out` is kept (R213). -/
def clearedLoop (freq : Word) : McState :=
  { run := false, mcnt := 0#32, prevErr := 0#32, integ := 0#32, out := 0#32, duty := 0#32, dirsel := .stop,
    pwmDuty := 0#17, pendV := false, pendDuty := 0#17, pwmFreqOut := freq }

/-- `sat32` of R12, written out. -/
def sat (x : Int) : Int := max (-2147483648) (min 2147483647 x)

/-- The measured speed of R203 and R166. -/
def measured (s : State) : Int := if s.enc.pubNeg then -(s.enc.pubSpeed.toNat : Int) else s.enc.pubSpeed.toNat

/-- The error before saturation (R204). -/
def errorRaw (s : State) : Int := s.regs.target.toInt - measured s

/-- The integral before saturation (R205). -/
def integralRaw (s : State) : Int :=
  s.mc.integ.toInt + rnd (sat (errorRaw s) * s.regs.period.toNat) s.params.fClk

/-- The output before saturation (R206). -/
def outputRaw (s : State) : Int :=
  rnd (s.regs.kp.toInt * sat (errorRaw s) * s.regs.period.toNat
      + s.regs.ki.toInt * sat (integralRaw s) * s.regs.period.toNat
      + s.regs.kd.toInt * (sat (errorRaw s) - s.mc.prevErr.toInt) * s.params.fClk)
    (2 ^ 16 * s.regs.period.toNat)

/-- The unbounded signed duty (R207). -/
def dutyRaw (s : State) : Int :=
  rnd (sat (outputRaw s) * (2 ^ 16 - (s.regs.minDuty.toNat : Int))) s.regs.maxSpeed.toNat + s.regs.minDuty.toNat

/-- The edges of a cycle (R152). -/
def edges (s : State) : Nat :=
  (if s.pins.a = s.enc.aQ then 0 else 1) + (if s.regs.quad = true ∧ s.pins.b ≠ s.enc.bQ then 1 else 0)

/-- The history after an edge of quadrature mode, `4 * previous pair + current pair` (R155). -/
def edgeHistory (s : State) : BitVec 4 :=
  BitVec.ofNat 4 (4 * (s.enc.hist.toNat % 4) + 2 * bit s.pins.a + bit s.pins.b)

/-- The two units are undisturbed by `enc_fault` in this cycle. -/
def noFault (s : State) : Prop := s.enc.run = false ∨ s.pins.fault = false

/-- The next cycle carries the transaction `w`, without reset. -/
def nextWord (s : State) (w : BusWord) : Prop :=
  ∃ c rest, s.stim = c :: rest ∧ c.rst = false ∧ c.req = some w

/-- The next cycle resets the block: `rst = 1`, or the command SOFT_RESET. -/
def nextResets (s : State) : Prop :=
  (∃ c rest, s.stim = c :: rest ∧ c.rst = true) ∨ nextWord s 0x10400000006#41

end Sys2Proof.Claims

open Sys2Proof Sys2Proof.Machine Sys2Proof.Claims

/-! ### Encoding -/

/-- Decoding the encoding of any instruction gives it back, with every operand at every value (R100 to R103, R108). -/
def Obligations.DecodeOfEncode : Prop := ∀ i : Instr, i.wf = true → decode (encode i) = .ok i

/-- A word has one meaning: a decoded word has WE and ADDR of its instruction's encoding, and a write its WDATA too (R102, R108). -/
def Obligations.DecodedWordIsItsEncoding : Prop :=
  ∀ (w : BusWord) (i : Instr), decode w = .ok i →
    busWe w = busWe (encode i) ∧ busAddr w = busAddr (encode i) ∧ (busWe w = true → w = encode i)

/-- The illegal encodings are exactly those of R106, each with its error, and every other word is an instruction (R108). -/
def Obligations.IllegalEncodings : Prop :=
  ∀ w : BusWord,
    let a := (busAddr w).toNat
    let v := (busData w).toNat
    let ro := a ∈ [0x00, 0x0C, 0x1C, 0x20, 0x24, 0x28, 0x2C, 0x64, 0x68, 0x6C, 0x70, 0x74, 0x78, 0x7C]
    (a % 4 ≠ 0 → decode w = .error .unaligned) ∧
    (a % 4 = 0 → (0x30 ≤ a ∧ a ≤ 0x3C) ∨ (0x80 ≤ a ∧ a ≤ 0xFC) → decode w = .error .unmapped) ∧
    (busWe w = true → ro → decode w = .error .roWrite) ∧
    (busWe w = true → a = 0x04 → 256 ≤ v ∨ 7 ≤ v % 256 → decode w = .error .illegalCmd) ∧
    (a % 4 = 0 → a < 0x80 → ¬ (0x30 ≤ a ∧ a ≤ 0x3C) →
      (busWe w = true → ¬ ro ∧ (a = 0x04 → v < 7)) → ∃ i, decode w = .ok i)

/-- Words written out bit by bit from R100 and R103 decode to the instructions they stand for: one of each family. -/
def Obligations.WrittenWordsDecode : Prop :=
  decode 0b00000100000000000000000000000000000000000#41 = .ok .rdStatus ∧
  decode 0b00001110010101010101010101010101010101010#41 = .ok .rdEncCount ∧
  decode 0b00111110000000000000000000000000000000001#41 = .ok .rdMcPwmFreqOut ∧
  decode 0b10001010000000000000000000000000000001101#41 = .ok (.wrEncRes 13#32) ∧
  decode 0b10100000011111111111111100000000000000000#41 = .ok (.wrMcTarget 0xFFFE0000#32) ∧
  decode 0b10000010000000000000000000000000000000011#41 = .ok .cmdMcStart

/-! ### Steps -/

/-- A step whose cycle carries a word that decodes to `i` is `exec i` at the levels of that cycle (R88, R102, R130). -/
def Obligations.StepRunsDecodedInstruction : Prop :=
  ∀ (s : State) (c : CycleIn) (rest : List CycleIn) (w : BusWord) (i : Instr),
    s.stim = c :: rest → c.rst = false → c.req = some w → decode w = .ok i →
    step s = exec i { s with pins := c.pins, stim := rest }

/-- A word presented with `withFetchWord` is what the very next step decodes and runs, in the state it was presented in. -/
def Obligations.PresentedWordRunsNext : Prop :=
  ∀ (s : State) (nbits w : Nat) (i : Instr), decodeTableWord nbits w = some i →
    step (s.withFetchWord nbits w) = exec i s

/-- The error of a transaction is the first that CHECK finds, an error has no effect but its response and its capture, and a
transaction that passes CHECK is answered without error (R303, R304). -/
def Obligations.TransactionErrorsFollowCheck : Prop :=
  ∀ (s : State) (c : CycleIn) (rest : List CycleIn) (w : BusWord),
    s.stim = c :: rest → c.rst = false → c.req = some w →
    let s1 : State := { s with pins := c.pins, stim := rest }
    (∀ code, hostCheck s1 w = some code → step s = .next (errorAnswer s1 code.code (busAddr w))) ∧
    (hostCheck s1 w = none → ∃ t, step s = .next t ∧ t.bus.err = false)

/-- A cycle without a transaction answers 0 without error (R144). Its frame: the parameters, the snapshot and the frequency on the
port are unchanged; the configuration, the run flags and the error record change by an encoder fault alone (R182). -/
def Obligations.CycleWithoutTransaction : Prop :=
  ∀ (s : State) (c : CycleIn) (rest : List CycleIn),
    s.stim = c :: rest → c.rst = false → c.req = none →
    let s1 : State := { s with pins := c.pins, stim := rest }
    step s = .next (idleCycle s1) ∧ (idleCycle s1).bus = { rdata := 0#32, err := false } ∧
      (idleCycle s1).regs =
        (if s.enc.run = true ∧ c.pins.fault = true ∧ s.mc.run = true then { s.regs with target := 0#32 } else s.regs) ∧
      (idleCycle s1).params = s.params ∧ (idleCycle s1).pins = c.pins ∧ (idleCycle s1).stim = rest ∧
      (idleCycle s1).enc.snapDir = s.enc.snapDir ∧ (idleCycle s1).enc.snapSpeed = s.enc.snapSpeed ∧
      (idleCycle s1).enc.snapNeg = s.enc.snapNeg ∧ (idleCycle s1).mc.pwmFreqOut = s.mc.pwmFreqOut ∧
      (idleCycle s1).enc.run = (s.enc.run && !c.pins.fault) ∧
      (idleCycle s1).mc.run = (s.mc.run && !(s.enc.run && c.pins.fault)) ∧
      (¬ (s.enc.run = true ∧ c.pins.fault = true) → (idleCycle s1).cap = s.cap)

/-- In a cycle with `rst = 1` the next state is the reset state whatever the other inputs are, and the bus answers 0 without
error (R31, R354). -/
def Obligations.ResetCycle : Prop :=
  ∀ (s : State) (c : CycleIn) (rest : List CycleIn), s.stim = c :: rest → c.rst = true →
    step s = .next { State.reset with params := s.params, pins := c.pins, stim := rest }

/-- A run ends where its stimulus ends, and nowhere else (R15; the fault is the model's choice, log 3). -/
def Obligations.RunEndsOnlyWithItsStimulus : Prop :=
  ∀ s : State,
    (s.stim = [] → step s = .fault .stimulusEnded) ∧ (s.stim ≠ [] → ∃ t, step s = .next t)

/-- Every instruction completes in its own cycle, in every state (R34, R100, R300). -/
def Obligations.EveryInstructionCompletes : Prop :=
  ∀ (i : Instr) (s : State), ∃ t, exec i s = .next t

/-- A step consumes one cycle of the stimulus, takes its levels as the previous levels of the next cycle unless the block is
reset, and leaves the parameters (R13, R151). -/
def Obligations.StepConsumesOneCycle : Prop :=
  ∀ (s t : State) (c : CycleIn) (rest : List CycleIn), s.stim = c :: rest → step s = .next t →
    t.stim = rest ∧ t.pins = c.pins ∧ t.params = s.params ∧
      (nextResets s ∨ (t.enc.aQ = c.pins.a ∧ t.enc.bQ = c.pins.b))

/-- The reset values of R352 for every instance, and what they read as: neither unit can be started. -/
def Obligations.ResetValues : Prop :=
  ∀ p : Params,
    let r : State := { State.reset with params := p }
    r.enc = { run := false, aQ := false, bQ := false, hist := 0#4, dirLive := .stop, lastNeg := false, count := 0#32,
              base := 0#32, scnt := 0#32, pubCount := 0#32, pubDir := .stop, pubSpeed := 0#32, pubNeg := false,
              snapDir := .stop, snapSpeed := 0#32, snapNeg := false } ∧
    r.mc = clearedLoop 0#32 ∧
    r.regs = { quad := true, res := 0#16, sper := 0#32, target := 0#32, kp := 0#32, ki := 0#32, kd := 0#32,
               minDuty := 0#17, maxSpeed := 0#32, period := 0#32, pwmFreq := 0#32, patFwd := 0#8, patBwd := 0#8,
               patStop := 0#8 } ∧
    r.flags = { pub := false, inv := false, encf := false, mcf := false, pidsat := false, dutysat := false } ∧
    r.cap = { err := false, code := 0#8, addr := 0#8, ovf := false } ∧
    r.dirOut = 0#8 ∧ r.pwmDutyPort = 0#17 ∧ r.pwmFreqPort = 0#32 ∧
    exec .rdStatus r = .next (readAnswer r 0#32) ∧ exec .rdErrCause r = .next (readAnswer r 0#32) ∧
    exec .rdEncCfg r = .next (readAnswer r 1#32) ∧
    exec .cmdEncStart r = .next (errorAnswer r 0x08#8 0x04#8) ∧
    exec .cmdMcStart r = .next (errorAnswer r 0x08#8 0x04#8)

/-! ### Reads

The statements on instructions begin with their encodings, as each instruction's rule gives them. -/

/-- RD ID, CMD, STATUS and ERR_CAUSE return the values of R135, R136, R138 and R140 and change nothing. -/
def Obligations.ReadControlRegisters : Prop :=
  readEncoding 0x00#8 .rdId ∧ readEncoding 0x04#8 .rdCmd ∧ readEncoding 0x08#8 .rdStatus ∧
  readEncoding 0x0C#8 .rdErrCause ∧
  (∀ s : State,
     exec .rdId s = .next (readAnswer s (0x5145#16 ++ 0x01#8 ++ BitVec.ofNat 4 s.params.nDir ++ 0#4)) ∧
     exec .rdCmd s = .next (readAnswer s 0#32) ∧
     exec .rdStatus s = .next (readAnswer s (BitVec.ofNat 32
       (bit s.enc.run + 2 * bit s.mc.run + 16 * bit s.cap.err + 32 * bit s.flags.pub + 64 * bit s.flags.inv
         + 128 * bit s.flags.encf + 256 * bit s.flags.mcf + 512 * bit s.flags.pidsat + 1024 * bit s.flags.dutysat))) ∧
     exec .rdErrCause s = .next (readAnswer s (BitVec.ofNat 32
       (s.cap.code.toNat + 256 * s.cap.addr.toNat + 2147483648 * bit s.cap.ovf))))

/-- RD ENC_CFG, ENC_RES and ENC_SPER return the configuration (R173, R175, R177). -/
def Obligations.ReadEncoderConfiguration : Prop :=
  readEncoding 0x10#8 .rdEncCfg ∧ readEncoding 0x14#8 .rdEncRes ∧ readEncoding 0x18#8 .rdEncSper ∧
  (∀ s : State,
     exec .rdEncCfg s = .next (readAnswer s (BitVec.ofNat 32 (bit s.regs.quad))) ∧
     exec .rdEncRes s = .next (readAnswer s (BitVec.ofNat 32 s.regs.res.toNat)) ∧
     exec .rdEncSper s = .next (readAnswer s s.regs.sper))

/-- RD ENC_COUNT returns the published count and copies the published direction, speed and sign of the same state into the
snapshot, whatever happens in the cycle (R167). -/
def Obligations.ReadCountTakesSnapshot : Prop :=
  readEncoding 0x1C#8 .rdEncCount ∧ ∀ s : State, exec .rdEncCount s = .next
    { idleCycle s with
      bus := { rdata := s.enc.pubCount, err := false }
      enc := { (idleCycle s).enc with snapDir := s.enc.pubDir, snapSpeed := s.enc.pubSpeed, snapNeg := s.enc.pubNeg } }

/-- RD ENC_DIR, ENC_SPEED and ENC_SSPEED return the snapshot; bit 31 of the magnitude is 0 in every state that meets the invariant
(R168, R169, R170). -/
def Obligations.ReadSnapshot : Prop :=
  readEncoding 0x20#8 .rdEncDir ∧ readEncoding 0x24#8 .rdEncSpeed ∧ readEncoding 0x28#8 .rdEncSspeed ∧
  (∀ s : State,
     exec .rdEncDir s = .next (readAnswer s (BitVec.ofNat 32 (dirCode s.enc.snapDir))) ∧
     exec .rdEncSpeed s = .next (readAnswer s s.enc.snapSpeed) ∧
     exec .rdEncSspeed s = .next (readAnswer s (if s.enc.snapNeg then -s.enc.snapSpeed else s.enc.snapSpeed)) ∧
     (s.EncInv → s.enc.snapSpeed.getLsbD 31 = false))

/-- RD ENC_DBG returns the live encoder state at the bit positions of R58 (R171). -/
def Obligations.ReadEncoderDebug : Prop :=
  readEncoding 0x2C#8 .rdEncDbg ∧
  (∀ s : State, exec .rdEncDbg s = .next (readAnswer s (BitVec.ofNat 32
     (s.enc.hist.toNat
       + 16 * dirCode s.enc.dirLive
       + 256 * bit s.enc.lastNeg + 4096 * bit s.enc.aQ + 8192 * bit s.enc.bQ))))

/-- The reads of MC_TARGET to MC_PAT return the stored values (R217, R219, R221, R223, R225, R227, R229, R231, R233). -/
def Obligations.ReadLoopConfiguration : Prop :=
  readEncoding 0x40#8 .rdMcTarget ∧ readEncoding 0x44#8 .rdMcKp ∧ readEncoding 0x48#8 .rdMcKi ∧
  readEncoding 0x4C#8 .rdMcKd ∧ readEncoding 0x50#8 .rdMcMinDuty ∧ readEncoding 0x54#8 .rdMcMaxSpeed ∧
  readEncoding 0x58#8 .rdMcPeriod ∧ readEncoding 0x5C#8 .rdMcPwmFreq ∧ readEncoding 0x60#8 .rdMcPat ∧
  (∀ s : State,
     exec .rdMcTarget s = .next (readAnswer s s.regs.target) ∧
     exec .rdMcKp s = .next (readAnswer s s.regs.kp) ∧
     exec .rdMcKi s = .next (readAnswer s s.regs.ki) ∧
     exec .rdMcKd s = .next (readAnswer s s.regs.kd) ∧
     exec .rdMcMinDuty s = .next (readAnswer s (BitVec.ofNat 32 s.regs.minDuty.toNat)) ∧
     exec .rdMcMaxSpeed s = .next (readAnswer s s.regs.maxSpeed) ∧
     exec .rdMcPeriod s = .next (readAnswer s s.regs.period) ∧
     exec .rdMcPwmFreq s = .next (readAnswer s s.regs.pwmFreq) ∧
     exec .rdMcPat s = .next (readAnswer s (BitVec.ofNat 32
       (s.regs.patFwd.toNat + 256 * s.regs.patBwd.toNat + 65536 * s.regs.patStop.toNat))))

/-- The reads of the loop's results and outputs: MC_SPEED from the publication, not the snapshot (R234 to R240). -/
def Obligations.ReadLoopResults : Prop :=
  readEncoding 0x64#8 .rdMcSpeed ∧ readEncoding 0x68#8 .rdMcPrevErr ∧ readEncoding 0x6C#8 .rdMcIntegral ∧
  readEncoding 0x70#8 .rdMcOutput ∧ readEncoding 0x74#8 .rdMcDuty ∧ readEncoding 0x78#8 .rdMcOut ∧
  readEncoding 0x7C#8 .rdMcPwmFreqOut ∧
  (∀ s : State,
     exec .rdMcSpeed s = .next (readAnswer s (if s.enc.pubNeg then -s.enc.pubSpeed else s.enc.pubSpeed)) ∧
     exec .rdMcPrevErr s = .next (readAnswer s s.mc.prevErr) ∧
     exec .rdMcIntegral s = .next (readAnswer s s.mc.integ) ∧
     exec .rdMcOutput s = .next (readAnswer s s.mc.out) ∧
     exec .rdMcDuty s = .next (readAnswer s s.mc.duty) ∧
     exec .rdMcOut s = .next (readAnswer s (BitVec.ofNat 32
       (s.mc.pwmDuty.toNat + 131072 * bit s.mc.pendV
         + 262144 * patternCode s.mc.dirsel + 1048576 * (selectedPattern s).toNat))) ∧
     exec .rdMcPwmFreqOut s = .next (readAnswer s s.mc.pwmFreqOut))

/-! ### Writes -/

/-- WR STATUS clears the flags of bits 5 to 10 written with 1 and nothing else, before the events of the same cycle set flags: it
is the cycle without a transaction from the state with those flags cleared (R139). -/
def Obligations.WriteStatusClearsFlags : Prop :=
  writeEncoding 0x08#8 .wrStatus ∧ ∀ (v : Word) (s : State), exec (.wrStatus v) s = .next
    { idleCycle s with
      flags := (idleCycle { s with flags :=
        { pub := s.flags.pub && !v.getLsbD 5, inv := s.flags.inv && !v.getLsbD 6, encf := s.flags.encf && !v.getLsbD 7,
          mcf := s.flags.mcf && !v.getLsbD 8, pidsat := s.flags.pidsat && !v.getLsbD 9,
          dutysat := s.flags.dutysat && !v.getLsbD 10 } }).flags }

/-- Writes to the encoder configuration: stored while the encoder is stopped, ENC_CFG also setting the three directions;
BUSY_CONFIG while it runs (R172, R174, R176). -/
def Obligations.WriteEncoderConfiguration : Prop :=
  writeEncoding 0x10#8 .wrEncCfg ∧ writeEncoding 0x14#8 .wrEncRes ∧ writeEncoding 0x18#8 .wrEncSper ∧
  (∀ (v : Word) (s : State),
     (s.enc.run = false →
       exec (.wrEncCfg v) s = .next
         { idleCycle s with
           regs := { (idleCycle s).regs with quad := v.getLsbD 0 }
           enc := { (idleCycle s).enc with
             dirLive := if v.getLsbD 0 then .stop else .forward
             pubDir := if v.getLsbD 0 then .stop else .forward
             snapDir := if v.getLsbD 0 then .stop else .forward } } ∧
       exec (.wrEncRes v) s = .next
         { idleCycle s with regs := { (idleCycle s).regs with res := BitVec.ofNat 16 v.toNat } } ∧
       exec (.wrEncSper v) s = .next { idleCycle s with regs := { (idleCycle s).regs with sper := v } }) ∧
     (s.enc.run = true →
       exec (.wrEncCfg v) s = .next (errorAnswer s 0x04#8 0x10#8) ∧
       exec (.wrEncRes v) s = .next (errorAnswer s 0x04#8 0x14#8) ∧
       exec (.wrEncSper v) s = .next (errorAnswer s 0x04#8 0x18#8)))

/-- WR MC_TARGET stores the target in every state; it replaces what a fault stop of the same cycle cleared (R216). -/
def Obligations.WriteTarget : Prop :=
  writeEncoding 0x40#8 .wrMcTarget ∧ ∀ (v : Word) (s : State), exec (.wrMcTarget v) s = .next
    { idleCycle s with regs := { (idleCycle s).regs with target := v } }

/-- Writes to the gains: stored while the loop is stopped, BUSY_CONFIG while it runs (R218, R220, R222). -/
def Obligations.WriteGains : Prop :=
  writeEncoding 0x44#8 .wrMcKp ∧ writeEncoding 0x48#8 .wrMcKi ∧ writeEncoding 0x4C#8 .wrMcKd ∧
  (∀ (v : Word) (s : State),
     (s.mc.run = false →
       exec (.wrMcKp v) s = .next { idleCycle s with regs := { (idleCycle s).regs with kp := v } } ∧
       exec (.wrMcKi v) s = .next { idleCycle s with regs := { (idleCycle s).regs with ki := v } } ∧
       exec (.wrMcKd v) s = .next { idleCycle s with regs := { (idleCycle s).regs with kd := v } }) ∧
     (s.mc.run = true →
       exec (.wrMcKp v) s = .next (errorAnswer s 0x04#8 0x44#8) ∧
       exec (.wrMcKi v) s = .next (errorAnswer s 0x04#8 0x48#8) ∧
       exec (.wrMcKd v) s = .next (errorAnswer s 0x04#8 0x4C#8)))

/-- Writes to the minimum duty (clamped to 1.0), the maximum speed, the period and the PWM frequency: stored while the loop is
stopped, BUSY_CONFIG while it runs (R224, R226, R228, R230). -/
def Obligations.WriteLoopLimits : Prop :=
  writeEncoding 0x50#8 .wrMcMinDuty ∧ writeEncoding 0x54#8 .wrMcMaxSpeed ∧ writeEncoding 0x58#8 .wrMcPeriod ∧
  writeEncoding 0x5C#8 .wrMcPwmFreq ∧
  (∀ (v : Word) (s : State),
     (s.mc.run = false →
       (∃ m : Duty, m.toNat = min v.toNat 0x10000 ∧
         exec (.wrMcMinDuty v) s = .next { idleCycle s with regs := { (idleCycle s).regs with minDuty := m } }) ∧
       exec (.wrMcMaxSpeed v) s = .next { idleCycle s with regs := { (idleCycle s).regs with maxSpeed := v } } ∧
       exec (.wrMcPeriod v) s = .next { idleCycle s with regs := { (idleCycle s).regs with period := v } } ∧
       exec (.wrMcPwmFreq v) s = .next { idleCycle s with regs := { (idleCycle s).regs with pwmFreq := v } }) ∧
     (s.mc.run = true →
       exec (.wrMcMinDuty v) s = .next (errorAnswer s 0x04#8 0x50#8) ∧
       exec (.wrMcMaxSpeed v) s = .next (errorAnswer s 0x04#8 0x54#8) ∧
       exec (.wrMcPeriod v) s = .next (errorAnswer s 0x04#8 0x58#8) ∧
       exec (.wrMcPwmFreq v) s = .next (errorAnswer s 0x04#8 0x5C#8)))

/-- WR MC_PAT stores bit `i` of each pattern byte for `i < N_DIR` and drops the others, while the loop is stopped; BUSY_CONFIG
while it runs (R232). -/
def Obligations.WritePatterns : Prop :=
  writeEncoding 0x60#8 .wrMcPat ∧
  (∀ (v : Word) (s : State),
     (s.mc.run = false → ∃ fwd bwd stp : BitVec 8,
       (∀ i : Nat, i < 8 →
         fwd.getLsbD i = (decide (i < s.params.nDir) && v.getLsbD i) ∧
         bwd.getLsbD i = (decide (i < s.params.nDir) && v.getLsbD (8 + i)) ∧
         stp.getLsbD i = (decide (i < s.params.nDir) && v.getLsbD (16 + i))) ∧
       exec (.wrMcPat v) s = .next
         { idleCycle s with regs := { (idleCycle s).regs with patFwd := fwd, patBwd := bwd, patStop := stp } }) ∧
     (s.mc.run = true → exec (.wrMcPat v) s = .next (errorAnswer s 0x04#8 0x60#8)))

/-! ### Commands -/

/-- CMD NOP leaves every field as it would be with no transaction (R141). -/
def Obligations.NopIsNoTransaction : Prop :=
  commandEncoding 0x00#32 .cmdNop ∧
  ∀ s : State, exec .cmdNop s = .next (idleCycle s) ∧ (idleCycle s).bus = { rdata := 0#32, err := false }

/-- CMD CLR_ERR clears the record, then an asynchronous error of the same cycle is captured; the sticky flags are not touched
(R142). -/
def Obligations.ClearErrorThenCapture : Prop :=
  commandEncoding 0x05#32 .cmdClrErr ∧ ∀ s : State, exec .cmdClrErr s = .next
    { idleCycle s with
      cap :=
        if s.enc.run = true ∧ s.pins.fault = true then { err := true, code := 0x10#8, addr := 0#8, ovf := false }
        else { err := false, code := 0#8, addr := 0#8, ovf := false } }

/-- CMD SOFT_RESET gives the state a cycle with `rst = 1` gives, whatever the phases of its cycle would do, and captures nothing
(R143, R353). -/
def Obligations.SoftResetIsReset : Prop :=
  commandEncoding 0x06#32 .cmdSoftReset ∧
  (∀ s : State,
     exec .cmdSoftReset s = .next { State.reset with params := s.params, pins := s.pins, stim := s.stim } ∧
     ∀ req, step { s with stim := { rst := true, pins := s.pins, req := req } :: s.stim } = exec .cmdSoftReset s)

/-- CMD ENC_START: its checks in order, and the state it starts the encoder in (R178, R179, R180). -/
def Obligations.EncoderStart : Prop :=
  commandEncoding 0x01#32 .cmdEncStart ∧
  (∀ s : State,
     (s.enc.run = true → exec .cmdEncStart s = .next (errorAnswer s 0x06#8 0x04#8)) ∧
     (s.enc.run = false → s.regs.res = 0#16 → exec .cmdEncStart s = .next (errorAnswer s 0x08#8 0x04#8)) ∧
     (s.enc.run = false → s.regs.res ≠ 0#16 → s.regs.sper = 0#32 →
       exec .cmdEncStart s = .next (errorAnswer s 0x09#8 0x04#8)) ∧
     (s.enc.run = false → s.regs.res ≠ 0#16 → s.regs.sper ≠ 0#32 → s.pins.fault = true →
       exec .cmdEncStart s = .next (errorAnswer s 0x0C#8 0x04#8)) ∧
     (s.enc.run = false → s.regs.res ≠ 0#16 → s.regs.sper ≠ 0#32 → s.pins.fault = false →
       exec .cmdEncStart s = .next { idleCycle s with enc := clearedEncoder s true (startHistory s) }))

/-- CMD ENC_STOP: refused while the loop runs, else the encoder stops with its state cleared, whatever its phases did in the cycle
(R179, R181). -/
def Obligations.EncoderStop : Prop :=
  commandEncoding 0x02#32 .cmdEncStop ∧
  (∀ s : State,
     (s.mc.run = true → exec .cmdEncStop s = .next (errorAnswer s 0x07#8 0x04#8)) ∧
     (s.mc.run = false → exec .cmdEncStop s = .next { idleCycle s with enc := clearedEncoder s false 0#4 }))

/-- CMD MC_START: its checks in order, and, performed, the loop's initial state with the forward pattern and the PWM frequency
armed, `pwm_duty` and the target as they are, and a stopped encoder started with it (R212, R214). -/
def Obligations.LoopStart : Prop :=
  commandEncoding 0x03#32 .cmdMcStart ∧
  (∀ s : State,
    (s.mc.run = true → exec .cmdMcStart s = .next (errorAnswer s 0x06#8 0x04#8)) ∧
    (s.mc.run = false → s.enc.run = false → s.regs.res = 0#16 →
      exec .cmdMcStart s = .next (errorAnswer s 0x08#8 0x04#8)) ∧
    (s.mc.run = false → s.enc.run = false → s.regs.res ≠ 0#16 → s.regs.sper = 0#32 →
      exec .cmdMcStart s = .next (errorAnswer s 0x09#8 0x04#8)) ∧
    (s.mc.run = false → (s.enc.run = true ∨ (s.regs.res ≠ 0#16 ∧ s.regs.sper ≠ 0#32)) →
      (s.regs.period.toNat < 2 → exec .cmdMcStart s = .next (errorAnswer s 0x0A#8 0x04#8)) ∧
      (2 ≤ s.regs.period.toNat → s.regs.maxSpeed = 0#32 →
        exec .cmdMcStart s = .next (errorAnswer s 0x0B#8 0x04#8)) ∧
      (2 ≤ s.regs.period.toNat → s.regs.maxSpeed ≠ 0#32 → s.pins.fault = true →
        exec .cmdMcStart s = .next (errorAnswer s 0x0C#8 0x04#8)) ∧
      (2 ≤ s.regs.period.toNat → s.regs.maxSpeed ≠ 0#32 → s.pins.fault = false →
        exec .cmdMcStart s = .next
          { idleCycle s with
            enc := if s.enc.run then (idleCycle s).enc else clearedEncoder s true (startHistory s)
            mc := { clearedLoop s.regs.pwmFreq with run := true, dirsel := .fwd, pwmDuty := s.mc.pwmDuty } })))

/-- CMD MC_STOP: the loop's state and the target are cleared and the outputs neutral, whatever the loop did in the cycle; the
frequency, the gains and the encoder are kept (R213, R215). -/
def Obligations.LoopStop : Prop :=
  commandEncoding 0x04#32 .cmdMcStop ∧ ∀ s : State, exec .cmdMcStop s = .next
    { idleCycle s with
      mc := clearedLoop s.mc.pwmFreqOut
      regs := { (idleCycle s).regs with target := 0#32 } }

/-- Both stops are idempotent: a second ENC_STOP gives the same state again, a second MC_STOP the same loop state and registers
(R181, R215). -/
def Obligations.StopTwiceIsStopOnce : Prop :=
  ∀ s t : State,
    (s.mc.run = false → exec .cmdEncStop s = .next t → exec .cmdEncStop t = .next t) ∧
    (exec .cmdMcStop s = .next t → ∃ u, exec .cmdMcStop t = .next u ∧ u.mc = t.mc ∧ u.regs = t.regs)

/-! ### The block's own phases -/

/-- While both units are stopped, a cycle changes only `a_q` and `b_q`; a stopped encoder changes nothing else of the encoder, and a
stopped loop nothing of the loop and the registers (R150, R151, R200). -/
def Obligations.StoppedUnitsHold : Prop :=
  ∀ s : State,
    (s.enc.run = false → (idleCycle s).enc = { s.enc with aQ := s.pins.a, bQ := s.pins.b }) ∧
    (s.mc.run = false → (idleCycle s).mc = s.mc ∧ (idleCycle s).regs = s.regs) ∧
    (s.enc.run = false → s.mc.run = false →
      idleCycle s =
        { s with enc := { s.enc with aQ := s.pins.a, bQ := s.pins.b }, bus := { rdata := 0#32, err := false } })

/-- The 16 entries of the direction table (R156). -/
def Obligations.DirectionTable : Prop :=
  (List.range 16).map (fun h => tableDir (BitVec.ofNat 4 h)) =
    [Dir.stop, .backward, .forward, .invalid, .forward, .stop, .invalid, .backward,
      .backward, .invalid, .stop, .forward, .invalid, .forward, .backward, .stop]

/-- The running encoder in quadrature mode: an edge on either input counts, shifts the pair into the history, latches the table's
direction and the last known sign; without an edge all of them hold (R152, R155, R157, R158, R160). -/
def Obligations.QuadratureEdges : Prop :=
  ∀ s : State, s.enc.run = true → s.regs.quad = true →
    let t := (idleCycle s).enc
    t.count.toNat = (s.enc.count.toNat + edges s) % 2 ^ 32 ∧
    (edges s = 0 → t.hist = s.enc.hist ∧ t.dirLive = s.enc.dirLive ∧ t.lastNeg = s.enc.lastNeg) ∧
    (0 < edges s →
      t.hist = edgeHistory s ∧ t.dirLive = tableDir (edgeHistory s) ∧
      (t.dirLive = .forward → t.lastNeg = false) ∧ (t.dirLive = .backward → t.lastNeg = true) ∧
      (t.dirLive = .stop ∨ t.dirLive = .invalid → t.lastNeg = s.enc.lastNeg))

/-- The running encoder in single-channel mode: only edges of `enc_a` count, and history, direction, last sign and
the INVALID flag do not change (R161). -/
def Obligations.SingleChannelEdges : Prop :=
  ∀ s : State, s.enc.run = true → s.regs.quad = false →
    let t := (idleCycle s).enc
    t.count.toNat = (s.enc.count.toNat + (if s.pins.a = s.enc.aQ then 0 else 1)) % 2 ^ 32 ∧
    t.hist = s.enc.hist ∧ t.dirLive = s.enc.dirLive ∧ t.lastNeg = s.enc.lastNeg ∧ (idleCycle s).flags.inv = s.flags.inv

/-- In a running cycle without a strobe the sample counter counts, and the base and the published fields hold (R162, R164). -/
def Obligations.NoPublicationBetweenStrobes : Prop :=
  ∀ s : State, s.enc.run = true → s.enc.scnt.toNat + 1 < s.regs.sper.toNat →
    let t := (idleCycle s).enc
    t.scnt.toNat = s.enc.scnt.toNat + 1 ∧ t.base = s.enc.base ∧ t.pubCount = s.enc.pubCount ∧
      t.pubDir = s.enc.pubDir ∧ t.pubSpeed = s.enc.pubSpeed ∧ t.pubNeg = s.enc.pubNeg ∧
      t.snapDir = s.enc.snapDir ∧ t.snapSpeed = s.enc.snapSpeed ∧ t.snapNeg = s.enc.snapNeg

/-- The publication at a strobe: count, direction, speed and sign together, after this cycle's edges; the speed is the edges since
the base over `SPER * K * RES` in Q16.16, rounded to nearest and saturated (R162, R163, R164, R165). -/
def Obligations.PublicationAtStrobe : Prop :=
  ∀ s : State, s.enc.run = true → s.enc.scnt.toNat + 1 = s.regs.sper.toNat → s.regs.res ≠ 0#16 →
    let t := idleCycle s
    let n := ((t.enc.count - s.enc.base).toNat) * s.params.fClk * 2 ^ 16
    let d := s.regs.sper.toNat * (if s.regs.quad then 4 else 2) * s.regs.res.toNat
    t.enc.scnt = 0#32 ∧ t.enc.base = t.enc.count ∧ t.flags.pub = true ∧
    t.enc.pubCount = t.enc.count ∧ t.enc.pubDir = t.enc.dirLive ∧
    t.enc.pubSpeed.toNat = min ((2 * n + d) / (2 * d)) 2147483647 ∧
    t.enc.pubNeg = decide (s.regs.quad = true ∧
      (t.enc.dirLive = .backward ∨ (t.enc.dirLive = .invalid ∧ t.enc.lastNeg = true)))

/-- RND is the nearest integer, ties away from zero, and odd (R11). -/
def Obligations.RoundingIsNearest : Prop :=
  ∀ (n : Int) (d : Nat), 0 < d →
    (2 * (rnd n d * d - n)).natAbs ≤ d ∧
    ((2 * (rnd n d * d - n)).natAbs = d → n.natAbs < (rnd n d * d).natAbs) ∧
    rnd (-n) d = -rnd n d ∧ 0 ≤ n.sign * (rnd n d).sign

/-- The sticky flags after a cycle: each stays set, and each is set by exactly the event of its rule (R43, R159, R164, R182, R209,
R211). -/
def Obligations.StickyFlagEvents : Prop :=
  ∀ s : State,
    let t := (idleCycle s).flags
    let tick := s.mc.run = true ∧ s.mc.mcnt = 0#32
    (t.pub = true ↔ s.flags.pub = true ∨ (s.enc.run = true ∧ s.enc.scnt.toNat + 1 = s.regs.sper.toNat)) ∧
    (t.inv = true ↔ s.flags.inv = true ∨
      (s.enc.run = true ∧ s.regs.quad = true ∧ 0 < edges s ∧ tableDir (edgeHistory s) = .invalid)) ∧
    (t.encf = true ↔ s.flags.encf = true ∨ (s.enc.run = true ∧ s.pins.fault = true)) ∧
    (t.mcf = true ↔ s.flags.mcf = true ∨ (s.enc.run = true ∧ s.pins.fault = true ∧ s.mc.run = true)) ∧
    (t.pidsat = true ↔ s.flags.pidsat = true ∨ (tick ∧
      (sat (errorRaw s) ≠ errorRaw s ∨ sat (integralRaw s) ≠ integralRaw s ∨ sat (outputRaw s) ≠ outputRaw s))) ∧
    (t.dutysat = true ↔ s.flags.dutysat = true ∨ (tick ∧ 65536 < (dutyRaw s).natAbs))

/-- A control tick: error, integral, output and duty of R203 to R208, the direction switch of R210, the pending duty of R211, and
the duty of an earlier tick applied (R202). -/
def Obligations.ControlTick : Prop :=
  ∀ s : State, s.mc.run = true → s.mc.mcnt = 0#32 → 2 ≤ s.regs.period.toNat → noFault s →
    let t := (idleCycle s).mc
    t.run = true ∧ t.mcnt = 1#32 ∧
    t.prevErr.toInt = sat (errorRaw s) ∧ t.integ.toInt = sat (integralRaw s) ∧
    t.out.toInt = sat (outputRaw s) ∧ t.duty.toInt = sat (dutyRaw s) ∧
    t.dirsel =
      (if (dutyRaw s).sign * (measured s).sign = -1 then (if 0 < dutyRaw s then DirSel.fwd else DirSel.bwd)
        else s.mc.dirsel) ∧
    t.pendV = true ∧ t.pendDuty.toNat = min (dutyRaw s).natAbs 0x10000 ∧
    t.pwmDuty = (if s.mc.pendV then s.mc.pendDuty else s.mc.pwmDuty) ∧ t.pwmFreqOut = s.mc.pwmFreqOut

/-- A running cycle without a tick applies a pending duty and counts modulo P; nothing else of the loop changes (R201, R202). -/
def Obligations.CycleWithoutTick : Prop :=
  ∀ s : State, s.mc.run = true → s.mc.mcnt ≠ 0#32 → s.mc.mcnt.toNat < s.regs.period.toNat → noFault s →
    (idleCycle s).mc =
      { s.mc with
        mcnt := if s.mc.mcnt.toNat + 1 = s.regs.period.toNat then 0#32 else s.mc.mcnt + 1#32
        pwmDuty := if s.mc.pendV then s.mc.pendDuty else s.mc.pwmDuty
        pendV := false }

/-- The encoder fault: the encoder stops with the state it has after this cycle's edges and publication, the fault is flagged and
captured with code 0x10 and ADDR 0, and a running loop is stopped with neutral outputs and TARGET 0 (R182, R307). -/
def Obligations.EncoderFaultStopsUnits : Prop :=
  ∀ s : State, s.enc.run = true → s.pins.fault = true →
    let t := idleCycle s
    t.enc = { (idleCycle { s with pins := { s.pins with fault := false } }).enc with run := false } ∧
    t.flags.encf = true ∧
    t.cap = (if s.cap.err then { s.cap with ovf := true }
             else { err := true, code := 0x10#8, addr := 0#8, ovf := s.cap.ovf }) ∧
    (s.mc.run = true → t.flags.mcf = true ∧ t.mc = clearedLoop s.mc.pwmFreqOut ∧
      t.regs = { s.regs with target := 0#32 }) ∧
    (s.mc.run = false → t.mc = s.mc ∧ t.regs = s.regs ∧ t.flags.mcf = s.flags.mcf)

/-! ### The whole machine -/

/-- The invariant of the block is kept by every step, whatever the inputs of the cycle (R162, R183, R200 to R202, R245, R306). -/
def Obligations.StepKeepsInvariant : Prop :=
  ∀ s t : State, s.Inv → step s = .next t → t.Inv

/-- The invariant holds in the reset state of every legal instance. -/
def Obligations.ResetMeetsInvariant : Prop :=
  ∀ p : Params, p.wf → ({ State.reset with params := p } : State).Inv

/-- In quadrature mode an edge never latches STOP, and INVALID is latched exactly where both inputs change in one cycle: with at
most one change per cycle the direction is never INVALID (R184). -/
def Obligations.GrayStepsAreNeverInvalid : Prop :=
  ∀ s : State, s.EncInv → s.enc.run = true → s.regs.quad = true → 0 < edges s →
    (idleCycle s).enc.dirLive ≠ .stop ∧
    ((idleCycle s).enc.dirLive = .invalid ↔ (s.pins.a ≠ s.enc.aQ ∧ s.pins.b ≠ s.enc.bQ))

/-- Swapping the two channels turns every FORWARD entry of the direction table into a BACKWARD entry and back, and leaves STOP and
INVALID (R185). -/
def Obligations.SwappedChannelsMirrorTheTable : Prop :=
  ∀ a b c d : Bool,
    tableDir (pairOf b a ++ pairOf d c) =
      (match tableDir (pairOf a b ++ pairOf c d) with
        | .forward => .backward | .backward => .forward | .stop => .stop | .invalid => .invalid)

/-- The first captured error is kept until CLR_ERR, SOFT_RESET or `rst` clears it; OVF stays set until then (R306). -/
def Obligations.FirstErrorIsKept : Prop :=
  ∀ s t : State, s.cap.err = true → step s = .next t → ¬ nextResets s → ¬ nextWord s 0x10400000005#41 →
    t.cap.err = true ∧ t.cap.code = s.cap.code ∧ t.cap.addr = s.cap.addr ∧ (s.cap.ovf = true → t.cap.ovf = true)

/-- An asynchronous error and a bus error of one cycle: the asynchronous one is captured first, the other sets OVF (R305). -/
def Obligations.AsynchronousErrorFirst : Prop :=
  ∀ (s : State) (c : CycleIn) (rest : List CycleIn) (w : BusWord) (code : ErrCode),
    s.stim = c :: rest → c.rst = false → c.req = some w → s.cap = ErrCapture.none → s.enc.run = true →
    c.pins.fault = true → hostCheck { s with pins := c.pins, stim := rest } w = some code →
    ∃ t, step s = .next t ∧ t.bus = { rdata := 0#32, err := true } ∧
      t.cap = { err := true, code := 0x10#8, addr := 0#8, ovf := true }

/-- The snapshot changes only by RD ENC_COUNT, a start or stop of the encoder, a write of ENC_CFG, or a reset (R41, R359). -/
def Obligations.SnapshotChangesOnly : Prop :=
  ∀ s t : State, step s = .next t →
    (t.enc.snapDir = s.enc.snapDir ∧ t.enc.snapSpeed = s.enc.snapSpeed ∧ t.enc.snapNeg = s.enc.snapNeg) ∨
    nextResets s ∨
    ∃ w, nextWord s w ∧
      (decode w = .ok .rdEncCount ∨ decode w = .ok .cmdEncStart ∨ decode w = .ok .cmdEncStop ∨
        decode w = .ok .cmdMcStart ∨ ∃ v, decode w = .ok (.wrEncCfg v))

/-- The published fields change only at a publication, by a start or stop of the encoder, by a write of ENC_CFG (the direction
alone), or by a reset (R41, R164). -/
def Obligations.PublishedStateChangesOnly : Prop :=
  ∀ s t : State, step s = .next t →
    (t.enc.pubCount = s.enc.pubCount ∧ t.enc.pubDir = s.enc.pubDir ∧ t.enc.pubSpeed = s.enc.pubSpeed ∧
      t.enc.pubNeg = s.enc.pubNeg) ∨
    (s.enc.run = true ∧ s.enc.scnt.toNat + 1 = s.regs.sper.toNat) ∨ nextResets s ∨
    ∃ w, nextWord s w ∧
      (decode w = .ok .cmdEncStart ∨ decode w = .ok .cmdEncStop ∨ decode w = .ok .cmdMcStart ∨
        ∃ v, decode w = .ok (.wrEncCfg v))

/-- The direction pattern changes only in a tick whose duty and measured speed have opposite signs, by a start, stop or fault stop
of the loop, or by a reset (R242, C6). -/
def Obligations.PatternChangesOnly : Prop :=
  ∀ (s t : State) (c : CycleIn) (rest : List CycleIn), s.stim = c :: rest → step s = .next t →
    t.mc.dirsel ≠ s.mc.dirsel →
    (s.mc.run = true ∧ s.mc.mcnt = 0#32 ∧ (dutyRaw s).sign * (measured s).sign = -1) ∨
    (s.enc.run = true ∧ s.mc.run = true ∧ c.pins.fault = true) ∨ nextResets s ∨
    nextWord s 0x10400000003#41 ∨ nextWord s 0x10400000004#41

/-- No configuration changes under a running unit: a step that does not reset the block leaves the encoder's configuration while
the encoder runs, and the loop's while the loop runs (R46, R360). -/
def Obligations.ConfigurationFrozenWhileRunning : Prop :=
  ∀ s t : State, step s = .next t → ¬ nextResets s →
    (s.enc.run = true → t.regs.quad = s.regs.quad ∧ t.regs.res = s.regs.res ∧ t.regs.sper = s.regs.sper) ∧
    (s.mc.run = true → { t.regs with target := 0#32, quad := false, res := 0#16, sper := 0#32 } =
      { s.regs with target := 0#32, quad := false, res := 0#16, sper := 0#32 })

/-- Every operation behaves the same whatever the error record holds: only the record and the data a read returns can differ
(R309). -/
def Obligations.ErrorRecordHasNoInfluence : Prop :=
  ∀ (s t : State) (k : ErrCapture), step s = .next t →
    ∃ u, step { s with cap := k } = .next u ∧ u.bus.err = t.bus.err ∧ { u with cap := t.cap, bus := t.bus } = t

/-- In single-channel mode `enc_b` is ignored: two cycles without a transaction that differ only in the levels of channel B agree in
everything but those levels (R30, R152). -/
def Obligations.SingleChannelIgnoresB : Prop :=
  ∀ (s : State) (b q : Bool), s.regs.quad = false →
    let s' : State := { s with pins := { s.pins with b := b }, enc := { s.enc with bQ := q } }
    idleCycle s' =
      { idleCycle s with pins := { s.pins with b := b }, enc := { (idleCycle s).enc with bQ := b } }

/-- The duty of a tick in cycle `t` is on the port from cycle `t+2`, its direction pattern from cycle `t+1` (R202, R358). -/
def Obligations.PatternOneCycleBeforeDuty : Prop :=
  ∀ (s : State) (c1 c2 : CycleIn) (rest : List CycleIn),
    s.stim = c1 :: c2 :: rest → c1.rst = false → c2.rst = false → c1.req = none → c2.req = none →
    c1.pins.fault = false → c2.pins.fault = false →
    s.mc.run = true → s.mc.mcnt = 0#32 → s.mc.pendV = false → 2 ≤ s.regs.period.toNat →
    ∃ t u, step s = .next t ∧ step t = .next u ∧
      t.pwmDutyPort = s.pwmDutyPort ∧ u.pwmDutyPort.toNat = min (dutyRaw s).natAbs 0x10000 ∧
      u.mc.dirsel = t.mc.dirsel ∧
      t.mc.dirsel = (if (dutyRaw s).sign * (measured s).sign = -1 then (if 0 < dutyRaw s then DirSel.fwd else DirSel.bwd)
        else s.mc.dirsel)

/-- A running encoder whose next strobe is `n` cycles away publishes exactly there: no earlier cycle changes a published field, the `n`-th publishes,
for every sequence of input levels without reset, fault and transaction (R162, R357). -/
def Obligations.PublicationComesOnTime : Prop :=
  ∀ (n : Nat) (s : State), s.enc.run = true → s.enc.scnt.toNat + n = s.regs.sper.toNat → 0 < n →
    n ≤ s.stim.length → (∀ c ∈ s.stim, c.rst = false ∧ c.req = none ∧ c.pins.fault = false) →
    (∀ k < n, ∃ t, Host.Core.run core k s = .next t ∧ t.enc.scnt.toNat = s.enc.scnt.toNat + k ∧ t.enc.base = s.enc.base ∧
      t.enc.pubCount = s.enc.pubCount ∧ t.enc.pubDir = s.enc.pubDir ∧ t.enc.pubSpeed = s.enc.pubSpeed ∧
      t.enc.pubNeg = s.enc.pubNeg) ∧
    ∃ t, Host.Core.run core n s = .next t ∧ t.enc.scnt = 0#32 ∧ t.flags.pub = true ∧ t.enc.pubCount = t.enc.count ∧
      t.enc.base = t.enc.count ∧ t.enc.pubDir = t.enc.dirLive

/-- A running loop whose next control tick is `n` cycles away ticks exactly there: its counter reaches 0 after `n` cycles, and until
then no cycle changes the tick's results or the pattern, for every sequence of input levels without reset, fault and transaction
(R201, R314). -/
def Obligations.TicksComeOnTime : Prop :=
  ∀ (n : Nat) (s : State), s.mc.run = true → s.mc.mcnt ≠ 0#32 → s.mc.mcnt.toNat + n = s.regs.period.toNat → 0 < n →
    n ≤ s.stim.length → (∀ c ∈ s.stim, c.rst = false ∧ c.req = none ∧ c.pins.fault = false) →
    (∀ k ≤ n, ∃ t, Host.Core.run core k s = .next t ∧
      t.mc.mcnt.toNat = (s.mc.mcnt.toNat + k) % s.regs.period.toNat ∧ t.mc.run = true ∧ t.mc.prevErr = s.mc.prevErr ∧
      t.mc.integ = s.mc.integ ∧ t.mc.out = s.mc.out ∧ t.mc.duty = s.mc.duty ∧ t.mc.dirsel = s.mc.dirsel ∧
      (0 < k → t.mc.pendV = false ∧ t.mc.pwmDuty = if s.mc.pendV then s.mc.pendDuty else s.mc.pwmDuty))
end

