-- ==== Sys2Proof/Laws/Arith.lean ====
section
/-! SUPPORT. The arithmetic: saturation, rounding, signed patterns, and fields placed in a register. -/

namespace Sys2Proof.Machine

/-! ### Saturation and patterns -/

theorem sat32_eq (x : Int) : sat32 x = max (-2147483648) (min 2147483647 x) := rfl

theorem sat32_bounds (x : Int) : -2147483648 ≤ sat32 x ∧ sat32 x ≤ 2147483647 := by
  rw [sat32_eq]; omega

/-- A saturated value is stored exactly (R9, R12). -/
@[simp] theorem toInt_u32_sat32 (x : Int) : (u32 (sat32 x)).toInt = sat32 x := by
  have h := sat32_bounds x
  unfold u32
  rw [BitVec.toInt_ofInt]
  apply Int.bmod_eq_of_le <;> omega

/-- The signed speed of a magnitude as a 32-bit pattern is the magnitude or its negation (R166). -/
theorem u32_signedSpeed (mag : Word) (neg : Bool) : u32 (signedSpeed mag neg) = if neg then -mag else mag := by
  cases neg <;> simp [u32, signedSpeed, BitVec.ofInt_neg]

/-! ### Rounding (R11) -/

/-- RND of a natural number is the rounded quotient. -/
theorem rnd_natCast (n d : Nat) (hd : 0 < d) : rnd (n : Int) d = ((2 * n + d) / (2 * d) : Nat) := by
  unfold rnd
  rw [if_neg (by omega)]
  rcases Nat.eq_zero_or_pos n with rfl | hn
  · have : (2 * 0 + d) / (2 * d) = 0 := Nat.div_eq_of_lt (by omega)
    simp only [Nat.cast_zero, Int.sign_zero, zero_mul, this]
  · rw [Int.sign_eq_one_of_pos (by exact_mod_cast hn)]
    simp

/-- RND is odd. -/
theorem rnd_neg (n : Int) (d : Nat) (hd : 0 < d) : rnd (-n) d = -rnd n d := by
  unfold rnd
  rw [if_neg (by omega), if_neg (by omega)]
  simp

theorem rnd_zero (d : Nat) (hd : 0 < d) : rnd 0 d = 0 := by
  unfold rnd
  rw [if_neg (by omega)]
  simp

/-- RND of a non-negative number is not negative. -/
theorem rnd_nonneg (n d : Nat) (hd : 0 < d) : 0 ≤ rnd (n : Int) d := by
  rw [rnd_natCast n d hd]; exact Int.natCast_nonneg _

/-- The remainder of a modulus that is not 0. -/
theorem modulo_of_pos (n d : Nat) (hd : 0 < d) : modulo n d = n % d := by
  unfold modulo; rw [if_neg (by omega)]

/-! ### Fields of a register (R8, R49, R50, R58, R67, R73) -/

@[simp] theorem bitField_eq (b : Bool) (k : Nat) : bitField b k = wordField (BitVec.ofBool b) k := rfl

/-- A field placed above the bits in use adds its value times its weight. -/
theorem toNat_or_wordField {n : Nat} (x : Word) (y : BitVec n) (k : Nat) (hx : x.toNat < 2 ^ k) (hk : n + k ≤ 32) :
    (x ||| wordField y k).toNat = x.toNat + y.toNat * 2 ^ k := by
  have hy : y.toNat * 2 ^ k < 2 ^ 32 := by
    calc y.toNat * 2 ^ k < 2 ^ n * 2 ^ k := Nat.mul_lt_mul_of_pos_right y.isLt (Nat.two_pow_pos k)
      _ = 2 ^ (n + k) := (pow_add 2 n k).symm
      _ ≤ 2 ^ 32 := Nat.pow_le_pow_right (by omega) hk
  have hn : y.toNat < 2 ^ 32 := lt_of_lt_of_le y.isLt (Nat.pow_le_pow_right (by omega) (by omega))
  unfold wordField
  rw [BitVec.toNat_or, BitVec.toNat_shiftLeft, BitVec.toNat_setWidth, Nat.mod_eq_of_lt hn, Nat.shiftLeft_eq,
    Nat.mod_eq_of_lt hy, Nat.or_comm, ← Nat.shiftLeft_eq, ← Nat.shiftLeft_add_eq_or_of_lt hx, Nat.shiftLeft_eq, Nat.add_comm]

/-- The lowest field has its own value. -/
theorem toNat_wordField_zero {n : Nat} (y : BitVec n) (hn : n ≤ 32) : (wordField y 0).toNat = y.toNat := by
  have h : y.toNat < 2 ^ 32 := lt_of_lt_of_le y.isLt (Nat.pow_le_pow_right (by omega) hn)
  unfold wordField
  rw [BitVec.shiftLeft_zero, BitVec.toNat_setWidth, Nat.mod_eq_of_lt h]

theorem toNat_ofBool_le (b : Bool) : (BitVec.ofBool b).toNat ≤ 1 := by cases b <;> decide

/-- ERR_CAUSE as a sum of its fields (R140). -/
theorem errCauseWord_toNat (s : State) :
    (errCauseWord s).toNat =
      s.cap.code.toNat + s.cap.addr.toNat * 2 ^ 8 + (BitVec.ofBool s.cap.ovf).toNat * 2 ^ 31 := by
  have h1 := s.cap.code.isLt
  have h2 := s.cap.addr.isLt
  have e0 := toNat_wordField_zero s.cap.code (by omega)
  have e1 := toNat_or_wordField (wordField s.cap.code 0) s.cap.addr 8 (by omega) (by omega)
  unfold errCauseWord
  rw [bitField_eq, toNat_or_wordField _ _ 31 (by omega) (by omega), e1, e0]

/-- STATUS as a sum of its fields (R138). -/
theorem statusWord_toNat (s : State) :
    (statusWord s).toNat =
      (BitVec.ofBool s.enc.run).toNat + (BitVec.ofBool s.mc.run).toNat * 2 ^ 1 + (BitVec.ofBool s.cap.err).toNat * 2 ^ 4
        + (BitVec.ofBool s.flags.pub).toNat * 2 ^ 5 + (BitVec.ofBool s.flags.inv).toNat * 2 ^ 6
        + (BitVec.ofBool s.flags.encf).toNat * 2 ^ 7 + (BitVec.ofBool s.flags.mcf).toNat * 2 ^ 8
        + (BitVec.ofBool s.flags.pidsat).toNat * 2 ^ 9 + (BitVec.ofBool s.flags.dutysat).toNat * 2 ^ 10 := by
  unfold statusWord
  cases s.enc.run <;> cases s.mc.run <;> cases s.cap.err <;> cases s.flags.pub <;> cases s.flags.inv <;>
    cases s.flags.encf <;> cases s.flags.mcf <;> cases s.flags.pidsat <;> cases s.flags.dutysat <;> rfl

/-- ENC_DBG as a sum of its fields (R171). -/
theorem encDbgWord_toNat (s : State) :
    (encDbgWord s).toNat =
      s.enc.hist.toNat + s.enc.dirLive.code.toNat * 2 ^ 4 + (BitVec.ofBool s.enc.lastNeg).toNat * 2 ^ 8
        + (BitVec.ofBool s.enc.aQ).toNat * 2 ^ 12 + (BitVec.ofBool s.enc.bQ).toNat * 2 ^ 13 := by
  have h1 := s.enc.hist.isLt
  have h2 := s.enc.dirLive.code.isLt
  have h3 := toNat_ofBool_le s.enc.lastNeg
  have h4 := toNat_ofBool_le s.enc.aQ
  have e0 := toNat_wordField_zero s.enc.hist (by omega)
  have e1 := toNat_or_wordField (wordField s.enc.hist 0) s.enc.dirLive.code 4 (by omega) (by omega)
  have e2 := toNat_or_wordField (wordField s.enc.hist 0 ||| wordField s.enc.dirLive.code 4)
    (BitVec.ofBool s.enc.lastNeg) 8 (by omega) (by omega)
  have e3 := toNat_or_wordField (wordField s.enc.hist 0 ||| wordField s.enc.dirLive.code 4
    ||| wordField (BitVec.ofBool s.enc.lastNeg) 8) (BitVec.ofBool s.enc.aQ) 12 (by omega) (by omega)
  unfold encDbgWord
  simp only [bitField_eq]
  rw [toNat_or_wordField _ _ 13 (by omega) (by omega), e3, e2, e1, e0]

/-- MC_PAT as a sum of its fields (R233). -/
theorem mcPatWord_toNat (s : State) :
    (mcPatWord s).toNat =
      s.regs.patFwd.toNat + s.regs.patBwd.toNat * 2 ^ 8 + s.regs.patStop.toNat * 2 ^ 16 := by
  have h1 := s.regs.patFwd.isLt
  have h2 := s.regs.patBwd.isLt
  have e0 := toNat_wordField_zero s.regs.patFwd (by omega)
  have e1 := toNat_or_wordField (wordField s.regs.patFwd 0) s.regs.patBwd 8 (by omega) (by omega)
  unfold mcPatWord
  rw [toNat_or_wordField _ _ 16 (by omega) (by omega), e1, e0]

/-- MC_OUT as a sum of its fields (R239). -/
theorem mcOutWord_toNat (s : State) :
    (mcOutWord s).toNat =
      s.mc.pwmDuty.toNat + (BitVec.ofBool s.mc.pendV).toNat * 2 ^ 17 + s.mc.dirsel.code.toNat * 2 ^ 18
        + s.dirOut.toNat * 2 ^ 20 := by
  have h1 := s.mc.pwmDuty.isLt
  have h2 := toNat_ofBool_le s.mc.pendV
  have h3 := s.mc.dirsel.code.isLt
  have e0 := toNat_wordField_zero s.mc.pwmDuty (by omega)
  have e1 := toNat_or_wordField (wordField s.mc.pwmDuty 0) (BitVec.ofBool s.mc.pendV) 17 (by omega) (by omega)
  have e2 := toNat_or_wordField (wordField s.mc.pwmDuty 0 ||| wordField (BitVec.ofBool s.mc.pendV) 17)
    s.mc.dirsel.code 18 (by omega) (by omega)
  unfold mcOutWord
  simp only [bitField_eq]
  rw [toNat_or_wordField _ _ 20 (by omega) (by omega), e2, e1, e0]

end Sys2Proof.Machine
end

