-- ==== Sys2Proof/Laws/Decode.lean ====
section
/-! SUPPORT. The fields of a bus word, the register map and the three parts of the decoder, each said once. -/

namespace Sys2Proof

@[simp] theorem busWe_busWord (we : Bool) (a : Addr) (v : Word) : busWe (busWord we a v) = we := by
  unfold busWe busWord
  rw [BitVec.getLsbD_append, if_neg (by omega), BitVec.getLsbD_append, if_neg (by omega)]
  simp

@[simp] theorem busAddr_busWord (we : Bool) (a : Addr) (v : Word) : busAddr (busWord we a v) = a := by
  ext i hi
  have h : 32 + i - 32 = i := by omega
  unfold busAddr busWord
  rw [BitVec.getElem_extractLsb', BitVec.getLsbD_append, if_neg (by omega), BitVec.getLsbD_append, h, if_pos hi,
    BitVec.getLsbD_eq_getElem hi]

@[simp] theorem busData_busWord (we : Bool) (a : Addr) (v : Word) : busData (busWord we a v) = v := by
  ext i hi
  unfold busData busWord
  rw [BitVec.getElem_extractLsb', BitVec.getLsbD_append, if_pos (by omega), Nat.zero_add, BitVec.getLsbD_eq_getElem hi]

/-- A bus word is the word of its fields (R100). -/
theorem busWord_fields (w : BusWord) : busWord (busWe w) (busAddr w) (busData w) = w := by
  ext i hi
  simp only [busWe, busAddr, busData, busWord]
  rw [BitVec.getElem_append]
  by_cases h : i < 32
  · simp [h, BitVec.getLsbD_eq_getElem hi]
  · simp only [h, dite_false]
    rw [BitVec.getElem_append]
    by_cases h' : i - 32 < 8
    · have h32 : 32 + (i - 32) = i := by omega
      simp [h', h32, BitVec.getLsbD_eq_getElem hi]
    · have h40 : i = 40 := by omega
      subst h40
      simp

@[simp] theorem RegName.ofAddr_addr (r : RegName) : RegName.ofAddr r.addr = some r := by cases r <;> decide

@[simp] theorem RegName.addr_aligned (r : RegName) : r.addr.extractLsb' 0 2 = 0#2 := by cases r <;> decide

/-- The register at an address has that address. -/
theorem RegName.addr_of_ofAddr {a : Addr} {r : RegName} (h : RegName.ofAddr a = some r) : r.addr = a := by
  simpa using List.find?_some h

@[simp] theorem fieldsOf_readOf (r : RegName) : fieldsOf (readOf r) = (false, r, 0#32) := by cases r <;> rfl

/-- Write data is its two CMD fields (R101). -/
theorem cmd_fields (v : Word) : (cmdMbz v ++ cmdOpc v : BitVec 32) = v := by
  ext i hi
  rw [BitVec.getElem_append]
  by_cases h : i < 8
  · simp [h, cmdOpc, BitVec.getLsbD_eq_getElem hi]
  · have h8 : 8 + (i - 8) = i := by omega
    simp [h, cmdMbz, h8, BitVec.getLsbD_eq_getElem hi]

/-- A decoded command has the write data of its encoding (R103). -/
theorem fieldsOf_of_commandOf {v : Word} {i : Instr} (h : commandOf v = .ok i) : fieldsOf i = (true, .cmd, v) := by
  unfold commandOf at h
  split at h
  · cases h
  · rename_i hm
    have hv := cmd_fields v
    simp only [not_not] at hm
    rw [hm] at hv
    have hn : v.toNat = (cmdOpc v).toNat := by
      rw [← congrArg BitVec.toNat hv, BitVec.toNat_append]
      simp
    have hk : ∀ k, (cmdOpc v).toNat = k → v = BitVec.ofNat 32 k := by
      intro k hk
      apply BitVec.eq_of_toNat_eq
      have := v.isLt
      simp
      omega
    split at h <;> cases h <;> rw [hk _ (by assumption)] <;> rfl

/-- A decoded write has the register and the data of its encoding (R102). -/
theorem fieldsOf_of_writeOf {r : RegName} {v : Word} {i : Instr} (h : writeOf r v = .ok i) : fieldsOf i = (true, r, v) := by
  cases r <;> simp only [writeOf] at h
  case cmd => exact fieldsOf_of_commandOf h
  all_goals first | (cases h; rfl) | cases h

/-- Everything a decoded word can be (R102): a read of a mapped register, or a write of one. -/
theorem decode_ok_cases {w : BusWord} {i : Instr} (h : decode w = .ok i) :
    ∃ r : RegName, busAddr w = r.addr ∧
      ((busWe w = false ∧ i = readOf r) ∨ (busWe w = true ∧ writeOf r (busData w) = .ok i)) := by
  unfold decode at h
  split at h
  · cases h
  split at h
  · cases h
  rename_i r hr
  refine ⟨r, (RegName.addr_of_ofAddr hr).symm, ?_⟩
  split at h
  · exact Or.inr ⟨by assumption, h⟩
  · rename_i hw
    cases h
    exact Or.inl ⟨by simpa using hw, rfl⟩

/-- How a word at a mapped address decodes (R102). -/
theorem decode_at {w : BusWord} {r : RegName} (h : busAddr w = r.addr) :
    decode w = if busWe w then writeOf r (busData w) else .ok (readOf r) := by
  simp [decode, h]

end Sys2Proof
end

