-- ==== Sys2Proof/Laws/State.lean ====
section
/-! SUPPORT. One lemma per field of State and update of State, true by rfl, so that no proof unfolds an update. -/

namespace Sys2Proof.Machine

@[simp] theorem State.withEnc_params (s : State) (e : EncState) : (s.withEnc e).params = s.params := rfl
@[simp] theorem State.withEnc_enc (s : State) (e : EncState) : (s.withEnc e).enc = e := rfl
@[simp] theorem State.withEnc_mc (s : State) (e : EncState) : (s.withEnc e).mc = s.mc := rfl
@[simp] theorem State.withEnc_regs (s : State) (e : EncState) : (s.withEnc e).regs = s.regs := rfl
@[simp] theorem State.withEnc_flags (s : State) (e : EncState) : (s.withEnc e).flags = s.flags := rfl
@[simp] theorem State.withEnc_cap (s : State) (e : EncState) : (s.withEnc e).cap = s.cap := rfl
@[simp] theorem State.withEnc_bus (s : State) (e : EncState) : (s.withEnc e).bus = s.bus := rfl
@[simp] theorem State.withEnc_pins (s : State) (e : EncState) : (s.withEnc e).pins = s.pins := rfl
@[simp] theorem State.withEnc_stim (s : State) (e : EncState) : (s.withEnc e).stim = s.stim := rfl

@[simp] theorem State.withMc_params (s : State) (m : McState) : (s.withMc m).params = s.params := rfl
@[simp] theorem State.withMc_enc (s : State) (m : McState) : (s.withMc m).enc = s.enc := rfl
@[simp] theorem State.withMc_mc (s : State) (m : McState) : (s.withMc m).mc = m := rfl
@[simp] theorem State.withMc_regs (s : State) (m : McState) : (s.withMc m).regs = s.regs := rfl
@[simp] theorem State.withMc_flags (s : State) (m : McState) : (s.withMc m).flags = s.flags := rfl
@[simp] theorem State.withMc_cap (s : State) (m : McState) : (s.withMc m).cap = s.cap := rfl
@[simp] theorem State.withMc_bus (s : State) (m : McState) : (s.withMc m).bus = s.bus := rfl
@[simp] theorem State.withMc_pins (s : State) (m : McState) : (s.withMc m).pins = s.pins := rfl
@[simp] theorem State.withMc_stim (s : State) (m : McState) : (s.withMc m).stim = s.stim := rfl

@[simp] theorem State.withRegs_params (s : State) (r : Regs) : (s.withRegs r).params = s.params := rfl
@[simp] theorem State.withRegs_enc (s : State) (r : Regs) : (s.withRegs r).enc = s.enc := rfl
@[simp] theorem State.withRegs_mc (s : State) (r : Regs) : (s.withRegs r).mc = s.mc := rfl
@[simp] theorem State.withRegs_regs (s : State) (r : Regs) : (s.withRegs r).regs = r := rfl
@[simp] theorem State.withRegs_flags (s : State) (r : Regs) : (s.withRegs r).flags = s.flags := rfl
@[simp] theorem State.withRegs_cap (s : State) (r : Regs) : (s.withRegs r).cap = s.cap := rfl
@[simp] theorem State.withRegs_bus (s : State) (r : Regs) : (s.withRegs r).bus = s.bus := rfl
@[simp] theorem State.withRegs_pins (s : State) (r : Regs) : (s.withRegs r).pins = s.pins := rfl
@[simp] theorem State.withRegs_stim (s : State) (r : Regs) : (s.withRegs r).stim = s.stim := rfl

@[simp] theorem State.withFlags_params (s : State) (f : Sticky) : (s.withFlags f).params = s.params := rfl
@[simp] theorem State.withFlags_enc (s : State) (f : Sticky) : (s.withFlags f).enc = s.enc := rfl
@[simp] theorem State.withFlags_mc (s : State) (f : Sticky) : (s.withFlags f).mc = s.mc := rfl
@[simp] theorem State.withFlags_regs (s : State) (f : Sticky) : (s.withFlags f).regs = s.regs := rfl
@[simp] theorem State.withFlags_flags (s : State) (f : Sticky) : (s.withFlags f).flags = f := rfl
@[simp] theorem State.withFlags_cap (s : State) (f : Sticky) : (s.withFlags f).cap = s.cap := rfl
@[simp] theorem State.withFlags_bus (s : State) (f : Sticky) : (s.withFlags f).bus = s.bus := rfl
@[simp] theorem State.withFlags_pins (s : State) (f : Sticky) : (s.withFlags f).pins = s.pins := rfl
@[simp] theorem State.withFlags_stim (s : State) (f : Sticky) : (s.withFlags f).stim = s.stim := rfl

@[simp] theorem State.withCap_params (s : State) (c : ErrCapture) : (s.withCap c).params = s.params := rfl
@[simp] theorem State.withCap_enc (s : State) (c : ErrCapture) : (s.withCap c).enc = s.enc := rfl
@[simp] theorem State.withCap_mc (s : State) (c : ErrCapture) : (s.withCap c).mc = s.mc := rfl
@[simp] theorem State.withCap_regs (s : State) (c : ErrCapture) : (s.withCap c).regs = s.regs := rfl
@[simp] theorem State.withCap_flags (s : State) (c : ErrCapture) : (s.withCap c).flags = s.flags := rfl
@[simp] theorem State.withCap_cap (s : State) (c : ErrCapture) : (s.withCap c).cap = c := rfl
@[simp] theorem State.withCap_bus (s : State) (c : ErrCapture) : (s.withCap c).bus = s.bus := rfl
@[simp] theorem State.withCap_pins (s : State) (c : ErrCapture) : (s.withCap c).pins = s.pins := rfl
@[simp] theorem State.withCap_stim (s : State) (c : ErrCapture) : (s.withCap c).stim = s.stim := rfl

@[simp] theorem State.withBus_params (s : State) (b : BusResp) : (s.withBus b).params = s.params := rfl
@[simp] theorem State.withBus_enc (s : State) (b : BusResp) : (s.withBus b).enc = s.enc := rfl
@[simp] theorem State.withBus_mc (s : State) (b : BusResp) : (s.withBus b).mc = s.mc := rfl
@[simp] theorem State.withBus_regs (s : State) (b : BusResp) : (s.withBus b).regs = s.regs := rfl
@[simp] theorem State.withBus_flags (s : State) (b : BusResp) : (s.withBus b).flags = s.flags := rfl
@[simp] theorem State.withBus_cap (s : State) (b : BusResp) : (s.withBus b).cap = s.cap := rfl
@[simp] theorem State.withBus_bus (s : State) (b : BusResp) : (s.withBus b).bus = b := rfl
@[simp] theorem State.withBus_pins (s : State) (b : BusResp) : (s.withBus b).pins = s.pins := rfl
@[simp] theorem State.withBus_stim (s : State) (b : BusResp) : (s.withBus b).stim = s.stim := rfl

@[simp] theorem State.withInputs_params (s : State) (p : Pins) (l : List CycleIn) : (s.withInputs p l).params = s.params := rfl
@[simp] theorem State.withInputs_enc (s : State) (p : Pins) (l : List CycleIn) : (s.withInputs p l).enc = s.enc := rfl
@[simp] theorem State.withInputs_mc (s : State) (p : Pins) (l : List CycleIn) : (s.withInputs p l).mc = s.mc := rfl
@[simp] theorem State.withInputs_regs (s : State) (p : Pins) (l : List CycleIn) : (s.withInputs p l).regs = s.regs := rfl
@[simp] theorem State.withInputs_flags (s : State) (p : Pins) (l : List CycleIn) : (s.withInputs p l).flags = s.flags := rfl
@[simp] theorem State.withInputs_cap (s : State) (p : Pins) (l : List CycleIn) : (s.withInputs p l).cap = s.cap := rfl
@[simp] theorem State.withInputs_bus (s : State) (p : Pins) (l : List CycleIn) : (s.withInputs p l).bus = s.bus := rfl
@[simp] theorem State.withInputs_pins (s : State) (p : Pins) (l : List CycleIn) : (s.withInputs p l).pins = p := rfl
@[simp] theorem State.withInputs_stim (s : State) (p : Pins) (l : List CycleIn) : (s.withInputs p l).stim = l := rfl

/-- Two states with the same fields are equal. -/
theorem State.eq_of_fields {a b : State} (hp : a.params = b.params) (he : a.enc = b.enc) (hm : a.mc = b.mc)
    (hr : a.regs = b.regs) (hf : a.flags = b.flags) (hc : a.cap = b.cap) (hb : a.bus = b.bus) (hi : a.pins = b.pins)
    (hs : a.stim = b.stim) : a = b := by
  cases a; cases b; simp_all

end Sys2Proof.Machine
end

