-- ==== Sys2Proof/Laws/Phases.lean ====
section
/-! SUPPORT. What each phase of a cycle leaves alone: one lemma per phase and field, which the later proofs cite instead of
unfolding the phases. -/

namespace Sys2Proof.Machine

@[simp] theorem inputSampling_n_params (s : State) (c : Cycle) : (inputSampling s c).n.params = c.n.params := by
  rfl
@[simp] theorem inputSampling_n_mc (s : State) (c : Cycle) : (inputSampling s c).n.mc = c.n.mc := by
  rfl
@[simp] theorem inputSampling_n_regs (s : State) (c : Cycle) : (inputSampling s c).n.regs = c.n.regs := by
  rfl
@[simp] theorem inputSampling_n_flags (s : State) (c : Cycle) : (inputSampling s c).n.flags = c.n.flags := by
  rfl
@[simp] theorem inputSampling_n_cap (s : State) (c : Cycle) : (inputSampling s c).n.cap = c.n.cap := by
  rfl
@[simp] theorem inputSampling_n_bus (s : State) (c : Cycle) : (inputSampling s c).n.bus = c.n.bus := by
  rfl
@[simp] theorem inputSampling_n_pins (s : State) (c : Cycle) : (inputSampling s c).n.pins = c.n.pins := by
  rfl
@[simp] theorem inputSampling_n_stim (s : State) (c : Cycle) : (inputSampling s c).n.stim = c.n.stim := by
  rfl
@[simp] theorem inputSampling_set (s : State) (c : Cycle) : (inputSampling s c).set = c.set := by
  rfl
@[simp] theorem inputSampling_clr (s : State) (c : Cycle) : (inputSampling s c).clr = c.clr := by
  rfl
@[simp] theorem inputSampling_aerr (s : State) (c : Cycle) : (inputSampling s c).aerr = c.aerr := by
  rfl
@[simp] theorem inputSampling_n_enc_run (s : State) (c : Cycle) : (inputSampling s c).n.enc.run = c.n.enc.run := by
  rfl
@[simp] theorem inputSampling_n_enc_hist (s : State) (c : Cycle) : (inputSampling s c).n.enc.hist = c.n.enc.hist := by
  rfl
@[simp] theorem inputSampling_n_enc_dirLive (s : State) (c : Cycle) : (inputSampling s c).n.enc.dirLive = c.n.enc.dirLive := by
  rfl
@[simp] theorem inputSampling_n_enc_lastNeg (s : State) (c : Cycle) : (inputSampling s c).n.enc.lastNeg = c.n.enc.lastNeg := by
  rfl
@[simp] theorem inputSampling_n_enc_count (s : State) (c : Cycle) : (inputSampling s c).n.enc.count = c.n.enc.count := by
  rfl
@[simp] theorem inputSampling_n_enc_base (s : State) (c : Cycle) : (inputSampling s c).n.enc.base = c.n.enc.base := by
  rfl
@[simp] theorem inputSampling_n_enc_scnt (s : State) (c : Cycle) : (inputSampling s c).n.enc.scnt = c.n.enc.scnt := by
  rfl
@[simp] theorem inputSampling_n_enc_pubCount (s : State) (c : Cycle) : (inputSampling s c).n.enc.pubCount = c.n.enc.pubCount := by
  rfl
@[simp] theorem inputSampling_n_enc_pubDir (s : State) (c : Cycle) : (inputSampling s c).n.enc.pubDir = c.n.enc.pubDir := by
  rfl
@[simp] theorem inputSampling_n_enc_pubSpeed (s : State) (c : Cycle) : (inputSampling s c).n.enc.pubSpeed = c.n.enc.pubSpeed := by
  rfl
@[simp] theorem inputSampling_n_enc_pubNeg (s : State) (c : Cycle) : (inputSampling s c).n.enc.pubNeg = c.n.enc.pubNeg := by
  rfl
@[simp] theorem inputSampling_n_enc_snapDir (s : State) (c : Cycle) : (inputSampling s c).n.enc.snapDir = c.n.enc.snapDir := by
  rfl
@[simp] theorem inputSampling_n_enc_snapSpeed (s : State) (c : Cycle) : (inputSampling s c).n.enc.snapSpeed = c.n.enc.snapSpeed := by
  rfl
@[simp] theorem inputSampling_n_enc_snapNeg (s : State) (c : Cycle) : (inputSampling s c).n.enc.snapNeg = c.n.enc.snapNeg := by
  rfl

@[simp] theorem inputSampling_n_enc_aQ (s : State) (c : Cycle) : (inputSampling s c).n.enc.aQ = s.pins.a := rfl
@[simp] theorem inputSampling_n_enc_bQ (s : State) (c : Cycle) : (inputSampling s c).n.enc.bQ = s.pins.b := rfl

@[simp] theorem encEdge_n_params (s : State) (c : Cycle) : (encEdge s c).n.params = c.n.params := by
  unfold encEdge; dsimp only; repeat' split
  all_goals rfl
@[simp] theorem encEdge_n_mc (s : State) (c : Cycle) : (encEdge s c).n.mc = c.n.mc := by
  unfold encEdge; dsimp only; repeat' split
  all_goals rfl
@[simp] theorem encEdge_n_regs (s : State) (c : Cycle) : (encEdge s c).n.regs = c.n.regs := by
  unfold encEdge; dsimp only; repeat' split
  all_goals rfl
@[simp] theorem encEdge_n_flags (s : State) (c : Cycle) : (encEdge s c).n.flags = c.n.flags := by
  unfold encEdge; dsimp only; repeat' split
  all_goals rfl
@[simp] theorem encEdge_n_cap (s : State) (c : Cycle) : (encEdge s c).n.cap = c.n.cap := by
  unfold encEdge; dsimp only; repeat' split
  all_goals rfl
@[simp] theorem encEdge_n_bus (s : State) (c : Cycle) : (encEdge s c).n.bus = c.n.bus := by
  unfold encEdge; dsimp only; repeat' split
  all_goals rfl
@[simp] theorem encEdge_n_pins (s : State) (c : Cycle) : (encEdge s c).n.pins = c.n.pins := by
  unfold encEdge; dsimp only; repeat' split
  all_goals rfl
@[simp] theorem encEdge_n_stim (s : State) (c : Cycle) : (encEdge s c).n.stim = c.n.stim := by
  unfold encEdge; dsimp only; repeat' split
  all_goals rfl
@[simp] theorem encEdge_clr (s : State) (c : Cycle) : (encEdge s c).clr = c.clr := by
  unfold encEdge; dsimp only; repeat' split
  all_goals rfl
@[simp] theorem encEdge_aerr (s : State) (c : Cycle) : (encEdge s c).aerr = c.aerr := by
  unfold encEdge; dsimp only; repeat' split
  all_goals rfl
@[simp] theorem encEdge_set_pub (s : State) (c : Cycle) : (encEdge s c).set.pub = c.set.pub := by
  unfold encEdge; dsimp only; repeat' split
  all_goals rfl
@[simp] theorem encEdge_set_encf (s : State) (c : Cycle) : (encEdge s c).set.encf = c.set.encf := by
  unfold encEdge; dsimp only; repeat' split
  all_goals rfl
@[simp] theorem encEdge_set_mcf (s : State) (c : Cycle) : (encEdge s c).set.mcf = c.set.mcf := by
  unfold encEdge; dsimp only; repeat' split
  all_goals rfl
@[simp] theorem encEdge_set_pidsat (s : State) (c : Cycle) : (encEdge s c).set.pidsat = c.set.pidsat := by
  unfold encEdge; dsimp only; repeat' split
  all_goals rfl
@[simp] theorem encEdge_set_dutysat (s : State) (c : Cycle) : (encEdge s c).set.dutysat = c.set.dutysat := by
  unfold encEdge; dsimp only; repeat' split
  all_goals rfl
@[simp] theorem encEdge_n_enc_run (s : State) (c : Cycle) : (encEdge s c).n.enc.run = c.n.enc.run := by
  unfold encEdge; dsimp only; repeat' split
  all_goals rfl
@[simp] theorem encEdge_n_enc_aQ (s : State) (c : Cycle) : (encEdge s c).n.enc.aQ = c.n.enc.aQ := by
  unfold encEdge; dsimp only; repeat' split
  all_goals rfl
@[simp] theorem encEdge_n_enc_bQ (s : State) (c : Cycle) : (encEdge s c).n.enc.bQ = c.n.enc.bQ := by
  unfold encEdge; dsimp only; repeat' split
  all_goals rfl
@[simp] theorem encEdge_n_enc_base (s : State) (c : Cycle) : (encEdge s c).n.enc.base = c.n.enc.base := by
  unfold encEdge; dsimp only; repeat' split
  all_goals rfl
@[simp] theorem encEdge_n_enc_scnt (s : State) (c : Cycle) : (encEdge s c).n.enc.scnt = c.n.enc.scnt := by
  unfold encEdge; dsimp only; repeat' split
  all_goals rfl
@[simp] theorem encEdge_n_enc_pubCount (s : State) (c : Cycle) : (encEdge s c).n.enc.pubCount = c.n.enc.pubCount := by
  unfold encEdge; dsimp only; repeat' split
  all_goals rfl
@[simp] theorem encEdge_n_enc_pubDir (s : State) (c : Cycle) : (encEdge s c).n.enc.pubDir = c.n.enc.pubDir := by
  unfold encEdge; dsimp only; repeat' split
  all_goals rfl
@[simp] theorem encEdge_n_enc_pubSpeed (s : State) (c : Cycle) : (encEdge s c).n.enc.pubSpeed = c.n.enc.pubSpeed := by
  unfold encEdge; dsimp only; repeat' split
  all_goals rfl
@[simp] theorem encEdge_n_enc_pubNeg (s : State) (c : Cycle) : (encEdge s c).n.enc.pubNeg = c.n.enc.pubNeg := by
  unfold encEdge; dsimp only; repeat' split
  all_goals rfl
@[simp] theorem encEdge_n_enc_snapDir (s : State) (c : Cycle) : (encEdge s c).n.enc.snapDir = c.n.enc.snapDir := by
  unfold encEdge; dsimp only; repeat' split
  all_goals rfl
@[simp] theorem encEdge_n_enc_snapSpeed (s : State) (c : Cycle) : (encEdge s c).n.enc.snapSpeed = c.n.enc.snapSpeed := by
  unfold encEdge; dsimp only; repeat' split
  all_goals rfl
@[simp] theorem encEdge_n_enc_snapNeg (s : State) (c : Cycle) : (encEdge s c).n.enc.snapNeg = c.n.enc.snapNeg := by
  unfold encEdge; dsimp only; repeat' split
  all_goals rfl

@[simp] theorem encSample_n_params (s : State) (c : Cycle) : (encSample s c).n.params = c.n.params := by
  unfold encSample; split <;> rfl
@[simp] theorem encSample_n_mc (s : State) (c : Cycle) : (encSample s c).n.mc = c.n.mc := by
  unfold encSample; split <;> rfl
@[simp] theorem encSample_n_regs (s : State) (c : Cycle) : (encSample s c).n.regs = c.n.regs := by
  unfold encSample; split <;> rfl
@[simp] theorem encSample_n_flags (s : State) (c : Cycle) : (encSample s c).n.flags = c.n.flags := by
  unfold encSample; split <;> rfl
@[simp] theorem encSample_n_cap (s : State) (c : Cycle) : (encSample s c).n.cap = c.n.cap := by
  unfold encSample; split <;> rfl
@[simp] theorem encSample_n_bus (s : State) (c : Cycle) : (encSample s c).n.bus = c.n.bus := by
  unfold encSample; split <;> rfl
@[simp] theorem encSample_n_pins (s : State) (c : Cycle) : (encSample s c).n.pins = c.n.pins := by
  unfold encSample; split <;> rfl
@[simp] theorem encSample_n_stim (s : State) (c : Cycle) : (encSample s c).n.stim = c.n.stim := by
  unfold encSample; split <;> rfl
@[simp] theorem encSample_clr (s : State) (c : Cycle) : (encSample s c).clr = c.clr := by
  unfold encSample; split <;> rfl
@[simp] theorem encSample_aerr (s : State) (c : Cycle) : (encSample s c).aerr = c.aerr := by
  unfold encSample; split <;> rfl
@[simp] theorem encSample_set_inv (s : State) (c : Cycle) : (encSample s c).set.inv = c.set.inv := by
  unfold encSample; split <;> rfl
@[simp] theorem encSample_set_encf (s : State) (c : Cycle) : (encSample s c).set.encf = c.set.encf := by
  unfold encSample; split <;> rfl
@[simp] theorem encSample_set_mcf (s : State) (c : Cycle) : (encSample s c).set.mcf = c.set.mcf := by
  unfold encSample; split <;> rfl
@[simp] theorem encSample_set_pidsat (s : State) (c : Cycle) : (encSample s c).set.pidsat = c.set.pidsat := by
  unfold encSample; split <;> rfl
@[simp] theorem encSample_set_dutysat (s : State) (c : Cycle) : (encSample s c).set.dutysat = c.set.dutysat := by
  unfold encSample; split <;> rfl
@[simp] theorem encSample_n_enc_run (s : State) (c : Cycle) : (encSample s c).n.enc.run = c.n.enc.run := by
  unfold encSample; split <;> rfl
@[simp] theorem encSample_n_enc_aQ (s : State) (c : Cycle) : (encSample s c).n.enc.aQ = c.n.enc.aQ := by
  unfold encSample; split <;> rfl
@[simp] theorem encSample_n_enc_bQ (s : State) (c : Cycle) : (encSample s c).n.enc.bQ = c.n.enc.bQ := by
  unfold encSample; split <;> rfl
@[simp] theorem encSample_n_enc_hist (s : State) (c : Cycle) : (encSample s c).n.enc.hist = c.n.enc.hist := by
  unfold encSample; split <;> rfl
@[simp] theorem encSample_n_enc_dirLive (s : State) (c : Cycle) : (encSample s c).n.enc.dirLive = c.n.enc.dirLive := by
  unfold encSample; split <;> rfl
@[simp] theorem encSample_n_enc_lastNeg (s : State) (c : Cycle) : (encSample s c).n.enc.lastNeg = c.n.enc.lastNeg := by
  unfold encSample; split <;> rfl
@[simp] theorem encSample_n_enc_count (s : State) (c : Cycle) : (encSample s c).n.enc.count = c.n.enc.count := by
  unfold encSample; split <;> rfl
@[simp] theorem encSample_n_enc_snapDir (s : State) (c : Cycle) : (encSample s c).n.enc.snapDir = c.n.enc.snapDir := by
  unfold encSample; split <;> rfl
@[simp] theorem encSample_n_enc_snapSpeed (s : State) (c : Cycle) : (encSample s c).n.enc.snapSpeed = c.n.enc.snapSpeed := by
  unfold encSample; split <;> rfl
@[simp] theorem encSample_n_enc_snapNeg (s : State) (c : Cycle) : (encSample s c).n.enc.snapNeg = c.n.enc.snapNeg := by
  unfold encSample; split <;> rfl

@[simp] theorem mcCycle_n_params (s : State) (c : Cycle) : (mcCycle s c).n.params = c.n.params := by
  unfold mcCycle; dsimp only; split <;> rfl
@[simp] theorem mcCycle_n_regs (s : State) (c : Cycle) : (mcCycle s c).n.regs = c.n.regs := by
  unfold mcCycle; dsimp only; split <;> rfl
@[simp] theorem mcCycle_n_flags (s : State) (c : Cycle) : (mcCycle s c).n.flags = c.n.flags := by
  unfold mcCycle; dsimp only; split <;> rfl
@[simp] theorem mcCycle_n_cap (s : State) (c : Cycle) : (mcCycle s c).n.cap = c.n.cap := by
  unfold mcCycle; dsimp only; split <;> rfl
@[simp] theorem mcCycle_n_bus (s : State) (c : Cycle) : (mcCycle s c).n.bus = c.n.bus := by
  unfold mcCycle; dsimp only; split <;> rfl
@[simp] theorem mcCycle_n_pins (s : State) (c : Cycle) : (mcCycle s c).n.pins = c.n.pins := by
  unfold mcCycle; dsimp only; split <;> rfl
@[simp] theorem mcCycle_n_stim (s : State) (c : Cycle) : (mcCycle s c).n.stim = c.n.stim := by
  unfold mcCycle; dsimp only; split <;> rfl
@[simp] theorem mcCycle_n_enc (s : State) (c : Cycle) : (mcCycle s c).n.enc = c.n.enc := by
  unfold mcCycle; dsimp only; split <;> rfl
@[simp] theorem mcCycle_clr (s : State) (c : Cycle) : (mcCycle s c).clr = c.clr := by
  unfold mcCycle; dsimp only; split <;> rfl
@[simp] theorem mcCycle_aerr (s : State) (c : Cycle) : (mcCycle s c).aerr = c.aerr := by
  unfold mcCycle; dsimp only; split <;> rfl
@[simp] theorem mcCycle_set_inv (s : State) (c : Cycle) : (mcCycle s c).set.inv = c.set.inv := by
  unfold mcCycle; dsimp only; split <;> rfl
@[simp] theorem mcCycle_set_pub (s : State) (c : Cycle) : (mcCycle s c).set.pub = c.set.pub := by
  unfold mcCycle; dsimp only; split <;> rfl
@[simp] theorem mcCycle_set_encf (s : State) (c : Cycle) : (mcCycle s c).set.encf = c.set.encf := by
  unfold mcCycle; dsimp only; split <;> rfl
@[simp] theorem mcCycle_set_mcf (s : State) (c : Cycle) : (mcCycle s c).set.mcf = c.set.mcf := by
  unfold mcCycle; dsimp only; split <;> rfl

@[simp] theorem applyPending_run (s : State) (m : McState) : (applyPending s m).run = m.run := by
  unfold applyPending; split <;> rfl

@[simp] theorem applyPending_pwmFreqOut (s : State) (m : McState) : (applyPending s m).pwmFreqOut = m.pwmFreqOut := by
  unfold applyPending; split <;> rfl

@[simp] theorem mcCycle_n_mc_run (s : State) (c : Cycle) : (mcCycle s c).n.mc.run = c.n.mc.run := by
  unfold mcCycle; dsimp only; split <;> simp [storeTick]

@[simp] theorem mcCycle_n_mc_pwmFreqOut (s : State) (c : Cycle) : (mcCycle s c).n.mc.pwmFreqOut = c.n.mc.pwmFreqOut := by
  unfold mcCycle; dsimp only; split <;> simp [storeTick]

@[simp] theorem encFault_n_params (s : State) (c : Cycle) : (encFault s c).n.params = c.n.params := by
  unfold encFault; dsimp only; split <;> rfl
@[simp] theorem encFault_n_flags (s : State) (c : Cycle) : (encFault s c).n.flags = c.n.flags := by
  unfold encFault; dsimp only; split <;> rfl
@[simp] theorem encFault_n_cap (s : State) (c : Cycle) : (encFault s c).n.cap = c.n.cap := by
  unfold encFault; dsimp only; split <;> rfl
@[simp] theorem encFault_n_bus (s : State) (c : Cycle) : (encFault s c).n.bus = c.n.bus := by
  unfold encFault; dsimp only; split <;> rfl
@[simp] theorem encFault_n_pins (s : State) (c : Cycle) : (encFault s c).n.pins = c.n.pins := by
  unfold encFault; dsimp only; split <;> rfl
@[simp] theorem encFault_n_stim (s : State) (c : Cycle) : (encFault s c).n.stim = c.n.stim := by
  unfold encFault; dsimp only; split <;> rfl
@[simp] theorem encFault_clr (s : State) (c : Cycle) : (encFault s c).clr = c.clr := rfl
@[simp] theorem encFault_set_inv (s : State) (c : Cycle) : (encFault s c).set.inv = c.set.inv := rfl
@[simp] theorem encFault_set_pub (s : State) (c : Cycle) : (encFault s c).set.pub = c.set.pub := rfl
@[simp] theorem encFault_set_pidsat (s : State) (c : Cycle) : (encFault s c).set.pidsat = c.set.pidsat := rfl
@[simp] theorem encFault_set_dutysat (s : State) (c : Cycle) : (encFault s c).set.dutysat = c.set.dutysat := rfl
@[simp] theorem encFault_n_enc_aQ (s : State) (c : Cycle) : (encFault s c).n.enc.aQ = c.n.enc.aQ := by
  unfold encFault; dsimp only; split <;> rfl
@[simp] theorem encFault_n_enc_bQ (s : State) (c : Cycle) : (encFault s c).n.enc.bQ = c.n.enc.bQ := by
  unfold encFault; dsimp only; split <;> rfl
@[simp] theorem encFault_n_enc_hist (s : State) (c : Cycle) : (encFault s c).n.enc.hist = c.n.enc.hist := by
  unfold encFault; dsimp only; split <;> rfl
@[simp] theorem encFault_n_enc_dirLive (s : State) (c : Cycle) : (encFault s c).n.enc.dirLive = c.n.enc.dirLive := by
  unfold encFault; dsimp only; split <;> rfl
@[simp] theorem encFault_n_enc_lastNeg (s : State) (c : Cycle) : (encFault s c).n.enc.lastNeg = c.n.enc.lastNeg := by
  unfold encFault; dsimp only; split <;> rfl
@[simp] theorem encFault_n_enc_count (s : State) (c : Cycle) : (encFault s c).n.enc.count = c.n.enc.count := by
  unfold encFault; dsimp only; split <;> rfl
@[simp] theorem encFault_n_enc_base (s : State) (c : Cycle) : (encFault s c).n.enc.base = c.n.enc.base := by
  unfold encFault; dsimp only; split <;> rfl
@[simp] theorem encFault_n_enc_scnt (s : State) (c : Cycle) : (encFault s c).n.enc.scnt = c.n.enc.scnt := by
  unfold encFault; dsimp only; split <;> rfl
@[simp] theorem encFault_n_enc_pubCount (s : State) (c : Cycle) : (encFault s c).n.enc.pubCount = c.n.enc.pubCount := by
  unfold encFault; dsimp only; split <;> rfl
@[simp] theorem encFault_n_enc_pubDir (s : State) (c : Cycle) : (encFault s c).n.enc.pubDir = c.n.enc.pubDir := by
  unfold encFault; dsimp only; split <;> rfl
@[simp] theorem encFault_n_enc_pubSpeed (s : State) (c : Cycle) : (encFault s c).n.enc.pubSpeed = c.n.enc.pubSpeed := by
  unfold encFault; dsimp only; split <;> rfl
@[simp] theorem encFault_n_enc_pubNeg (s : State) (c : Cycle) : (encFault s c).n.enc.pubNeg = c.n.enc.pubNeg := by
  unfold encFault; dsimp only; split <;> rfl
@[simp] theorem encFault_n_enc_snapDir (s : State) (c : Cycle) : (encFault s c).n.enc.snapDir = c.n.enc.snapDir := by
  unfold encFault; dsimp only; split <;> rfl
@[simp] theorem encFault_n_enc_snapSpeed (s : State) (c : Cycle) : (encFault s c).n.enc.snapSpeed = c.n.enc.snapSpeed := by
  unfold encFault; dsimp only; split <;> rfl
@[simp] theorem encFault_n_enc_snapNeg (s : State) (c : Cycle) : (encFault s c).n.enc.snapNeg = c.n.enc.snapNeg := by
  unfold encFault; dsimp only; split <;> rfl
@[simp] theorem encFault_n_regs_quad (s : State) (c : Cycle) : (encFault s c).n.regs.quad = c.n.regs.quad := by
  unfold encFault; dsimp only; split <;> rfl
@[simp] theorem encFault_n_regs_res (s : State) (c : Cycle) : (encFault s c).n.regs.res = c.n.regs.res := by
  unfold encFault; dsimp only; split <;> rfl
@[simp] theorem encFault_n_regs_sper (s : State) (c : Cycle) : (encFault s c).n.regs.sper = c.n.regs.sper := by
  unfold encFault; dsimp only; split <;> rfl
@[simp] theorem encFault_n_regs_kp (s : State) (c : Cycle) : (encFault s c).n.regs.kp = c.n.regs.kp := by
  unfold encFault; dsimp only; split <;> rfl
@[simp] theorem encFault_n_regs_ki (s : State) (c : Cycle) : (encFault s c).n.regs.ki = c.n.regs.ki := by
  unfold encFault; dsimp only; split <;> rfl
@[simp] theorem encFault_n_regs_kd (s : State) (c : Cycle) : (encFault s c).n.regs.kd = c.n.regs.kd := by
  unfold encFault; dsimp only; split <;> rfl
@[simp] theorem encFault_n_regs_minDuty (s : State) (c : Cycle) : (encFault s c).n.regs.minDuty = c.n.regs.minDuty := by
  unfold encFault; dsimp only; split <;> rfl
@[simp] theorem encFault_n_regs_maxSpeed (s : State) (c : Cycle) : (encFault s c).n.regs.maxSpeed = c.n.regs.maxSpeed := by
  unfold encFault; dsimp only; split <;> rfl
@[simp] theorem encFault_n_regs_period (s : State) (c : Cycle) : (encFault s c).n.regs.period = c.n.regs.period := by
  unfold encFault; dsimp only; split <;> rfl
@[simp] theorem encFault_n_regs_pwmFreq (s : State) (c : Cycle) : (encFault s c).n.regs.pwmFreq = c.n.regs.pwmFreq := by
  unfold encFault; dsimp only; split <;> rfl
@[simp] theorem encFault_n_regs_patFwd (s : State) (c : Cycle) : (encFault s c).n.regs.patFwd = c.n.regs.patFwd := by
  unfold encFault; dsimp only; split <;> rfl
@[simp] theorem encFault_n_regs_patBwd (s : State) (c : Cycle) : (encFault s c).n.regs.patBwd = c.n.regs.patBwd := by
  unfold encFault; dsimp only; split <;> rfl
@[simp] theorem encFault_n_regs_patStop (s : State) (c : Cycle) : (encFault s c).n.regs.patStop = c.n.regs.patStop := by
  unfold encFault; dsimp only; split <;> rfl
@[simp] theorem encFault_n_mc_pwmFreqOut (s : State) (c : Cycle) : (encFault s c).n.mc.pwmFreqOut = c.n.mc.pwmFreqOut := by
  unfold encFault; dsimp only; split <;> rfl

@[simp] theorem encFault_n_enc_run (s : State) (c : Cycle) : (encFault s c).n.enc.run = false := by
  unfold encFault; dsimp only; split <;> rfl

@[simp] theorem encFault_aerr (s : State) (c : Cycle) : (encFault s c).aerr = some .encHwFault := rfl

@[simp] theorem encFault_n_mc (s : State) (c : Cycle) :
    (encFault s c).n.mc = if s.mc.run then mcClear c.n.mc else c.n.mc := by
  unfold encFault; dsimp only; split <;> rfl

@[simp] theorem encFault_n_regs (s : State) (c : Cycle) :
    (encFault s c).n.regs = if s.mc.run then { c.n.regs with target := 0#32 } else c.n.regs := by
  unfold encFault; dsimp only; split <;> rfl

@[simp] theorem encFault_n_enc (s : State) (c : Cycle) : (encFault s c).n.enc = { c.n.enc with run := false } := by
  unfold encFault; dsimp only; split <;> rfl

end Sys2Proof.Machine
end

