-- ==== Sys2Proof/Laws/Ops.lean ====
section
/-! SUPPORT. What the block's own phases, the cycle operations and the commands' shared operations do, said once. -/

namespace Sys2Proof.Machine

@[simp] theorem cycleStart_n (s : State) : (cycleStart s).n = s := rfl
@[simp] theorem cycleStart_set (s : State) : (cycleStart s).set = Sticky.none := rfl
@[simp] theorem cycleStart_clr (s : State) : (cycleStart s).clr = Sticky.none := rfl
@[simp] theorem cycleStart_aerr (s : State) : (cycleStart s).aerr = none := rfl

/-! ### The own phases -/

@[simp] theorem ownPhases_params (s : State) : (ownPhases s).n.params = s.params := by
  unfold ownPhases; dsimp only; repeat' split
  all_goals simp

@[simp] theorem ownPhases_flags (s : State) : (ownPhases s).n.flags = s.flags := by
  unfold ownPhases; dsimp only; repeat' split
  all_goals simp

@[simp] theorem ownPhases_cap (s : State) : (ownPhases s).n.cap = s.cap := by
  unfold ownPhases; dsimp only; repeat' split
  all_goals simp

@[simp] theorem ownPhases_bus (s : State) : (ownPhases s).n.bus = s.bus := by
  unfold ownPhases; dsimp only; repeat' split
  all_goals simp

@[simp] theorem ownPhases_pins (s : State) : (ownPhases s).n.pins = s.pins := by
  unfold ownPhases; dsimp only; repeat' split
  all_goals simp

@[simp] theorem ownPhases_stim (s : State) : (ownPhases s).n.stim = s.stim := by
  unfold ownPhases; dsimp only; repeat' split
  all_goals simp

@[simp] theorem ownPhases_clr (s : State) : (ownPhases s).clr = Sticky.none := by
  unfold ownPhases; dsimp only; repeat' split
  all_goals simp

/-- The asynchronous error of a cycle is the encoder fault (R182). -/
theorem ownPhases_aerr (s : State) :
    (ownPhases s).aerr = if s.enc.run && s.pins.fault then some .encHwFault else none := by
  unfold ownPhases; dsimp only; split
  · simp
  · repeat' split
    all_goals simp

/-- The own phases write no configuration but the target, which a fault stop of the loop clears (R182, R213). -/
theorem ownPhases_regs (s : State) :
    (ownPhases s).n.regs =
      if s.enc.run && s.pins.fault && s.mc.run then { s.regs with target := 0#32 } else s.regs := by
  unfold ownPhases; dsimp only
  cases he : s.enc.run <;> cases hf : s.pins.fault <;> cases hm : s.mc.run <;> simp [hm]

/-- The encoder state after the own phases (R150, R182). -/
theorem ownPhases_enc (s : State) :
    (ownPhases s).n.enc =
      if s.enc.run then
        if s.pins.fault then
          { (encSample s (encEdge s (inputSampling s (cycleStart s)))).n.enc with run := false }
        else (encSample s (encEdge s (inputSampling s (cycleStart s)))).n.enc
      else { s.enc with aQ := s.pins.a, bQ := s.pins.b } := by
  unfold ownPhases; dsimp only
  cases he : s.enc.run <;> cases hf : s.pins.fault <;> cases hm : s.mc.run <;>
    simp [he, inputSampling, Cycle.withEnc]

/-- The loop state of a cycle depends on what the earlier phases left of it alone. -/
theorem mcCycle_n_mc (s : State) (c : Cycle) :
    (mcCycle s c).n.mc =
      if s.mc.mcnt = 0#32 then
        { storeTick (controlTick s) s (applyPending s c.n.mc) with
          mcnt := BitVec.ofNat 32 (modulo (s.mc.mcnt.toNat + 1) s.regs.period.toNat) }
      else
        { applyPending s c.n.mc with
          mcnt := BitVec.ofNat 32 (modulo (s.mc.mcnt.toNat + 1) s.regs.period.toNat) } := by
  unfold mcCycle; dsimp only; split <;> rfl

@[simp] theorem mcClear_mcClear (m : McState) : mcClear (mcClear m) = mcClear m := rfl

theorem mcClear_eq_of_pwmFreqOut {m m' : McState} (h : m.pwmFreqOut = m'.pwmFreqOut) : mcClear m = mcClear m' := by
  simp [mcClear, h]

/-- The loop state after the own phases (R200, R182). -/
theorem ownPhases_mc (s : State) :
    (ownPhases s).n.mc =
      if s.mc.run then
        if s.enc.run && s.pins.fault then mcClear s.mc else (mcCycle s (cycleStart s)).n.mc
      else s.mc := by
  unfold ownPhases; dsimp only
  cases hm : s.mc.run <;> cases he : s.enc.run <;> cases hf : s.pins.fault <;> simp [hm, mcCycle_n_mc]
  apply mcClear_eq_of_pwmFreqOut
  split <;> simp [storeTick]

/-- The sets of sticky flags of the own phases (R159, R164, R182, R209, R211). -/
theorem ownPhases_set (s : State) :
    (ownPhases s).set =
      { pub := s.enc.run && decide (s.enc.scnt.toNat + 1 = s.regs.sper.toNat)
        inv := s.enc.run && (encEdge s (inputSampling s (cycleStart s))).set.inv
        encf := s.enc.run && s.pins.fault
        mcf := s.enc.run && s.pins.fault && s.mc.run
        pidsat := s.mc.run && decide (s.mc.mcnt = 0#32) && (controlTick s).pidSat
        dutysat := s.mc.run && decide (s.mc.mcnt = 0#32) && decide (65536 < (controlTick s).du.natAbs) } := by
  have hs : ∀ c, (encSample s c).set = { c.set with pub := c.set.pub || decide (s.enc.scnt.toNat + 1 = s.regs.sper.toNat) } := by
    intro c; unfold encSample; split <;> simp_all [Cycle.withEnc]
  have hm : ∀ c, (mcCycle s c).set = { c.set with
      pidsat := c.set.pidsat || (decide (s.mc.mcnt = 0#32) && (controlTick s).pidSat)
      dutysat := c.set.dutysat || (decide (s.mc.mcnt = 0#32) && decide (65536 < (controlTick s).du.natAbs)) } := by
    intro c; unfold mcCycle; dsimp only; split <;> simp_all [tickFlags]
  have hf : ∀ c, (encFault s c).set = { c.set with encf := true, mcf := c.set.mcf || s.mc.run } := fun _ => rfl
  unfold ownPhases; dsimp only
  cases he : s.enc.run <;> cases hp : s.pins.fault <;> cases hr : s.mc.run <;>
    simp [hs, hm, hf, hr, Sticky.none]

/-! ### Finishing a cycle -/

@[simp] theorem finish_params (s : State) (c : Cycle) : (finish s c).params = c.n.params := rfl
@[simp] theorem finish_enc (s : State) (c : Cycle) : (finish s c).enc = c.n.enc := rfl
@[simp] theorem finish_mc (s : State) (c : Cycle) : (finish s c).mc = c.n.mc := rfl
@[simp] theorem finish_regs (s : State) (c : Cycle) : (finish s c).regs = c.n.regs := rfl
@[simp] theorem finish_bus (s : State) (c : Cycle) : (finish s c).bus = c.n.bus := rfl
@[simp] theorem finish_pins (s : State) (c : Cycle) : (finish s c).pins = c.n.pins := rfl
@[simp] theorem finish_stim (s : State) (c : Cycle) : (finish s c).stim = c.n.stim := rfl
@[simp] theorem finish_flags (s : State) (c : Cycle) : (finish s c).flags = stickyNext s.flags c.clr c.set := rfl
@[simp] theorem finish_cap (s : State) (c : Cycle) : (finish s c).cap = captureAsync c.aerr c.n.cap := rfl

@[simp] theorem idleCycle_params (s : State) : (idleCycle s).params = s.params := by simp [idleCycle]
@[simp] theorem idleCycle_pins (s : State) : (idleCycle s).pins = s.pins := by simp [idleCycle]
@[simp] theorem idleCycle_stim (s : State) : (idleCycle s).stim = s.stim := by simp [idleCycle]
@[simp] theorem idleCycle_bus (s : State) : (idleCycle s).bus = BusResp.idle := by simp [idleCycle]
@[simp] theorem idleCycle_enc (s : State) : (idleCycle s).enc = (ownPhases s).n.enc := by simp [idleCycle]
@[simp] theorem idleCycle_mc (s : State) : (idleCycle s).mc = (ownPhases s).n.mc := by simp [idleCycle]
@[simp] theorem idleCycle_regs (s : State) : (idleCycle s).regs = (ownPhases s).n.regs := by simp [idleCycle]
@[simp] theorem idleCycle_cap (s : State) : (idleCycle s).cap = captureAsync (ownPhases s).aerr s.cap := by
  simp [idleCycle]
@[simp] theorem idleCycle_flags (s : State) :
    (idleCycle s).flags = stickyNext s.flags Sticky.none (ownPhases s).set := by
  simp [idleCycle]

/-- The error record after the capture of an encoder fault, if there is one (R306, R307). -/
theorem captureAsync_ownPhases (s : State) (c : ErrCapture) :
    captureAsync (ownPhases s).aerr c =
      if s.enc.run && s.pins.fault then capture c .encHwFault 0#8 else c := by
  rw [ownPhases_aerr]; split <;> simp_all [captureAsync]

/-- A performed read is the cycle without a transaction with the response, and the read's side effect (R130). -/
theorem readCycle_id (v : Word) (s : State) :
    readCycle v id s = { idleCycle s with bus := { rdata := v, err := false } } := rfl

/-- A performed write whose effect leaves the error record and the flags alone is that effect on the cycle without a transaction
(R130). -/
theorem writeCycle_eq (f : State → State) (s : State) :
    writeCycle Sticky.none f s =
      { f (ownPhases s).n with
        bus := BusResp.idle
        flags := (idleCycle s).flags
        cap := captureAsync (ownPhases s).aerr (f (ownPhases s).n).cap } := by
  simp [writeCycle, finish, State.withBus, State.withCap, State.withFlags]

/-- An error answer: its response, and its capture after the one of the cycle (R303, R305, R306). -/
theorem busErrorCycle_eq (code : ErrCode) (a : Addr) (s : State) :
    busErrorCycle code a s =
      { idleCycle s with bus := { rdata := 0#32, err := true }, cap := capture (idleCycle s).cap code a } := rfl

/-- A checked write that passes is performed. -/
theorem checkedWrite_none (r : RegName) (f : State → State) (s : State) :
    checkedWrite r none f s = .next (writeCycle Sticky.none f s) := rfl

/-- A checked write that fails raises its error. -/
theorem checkedWrite_some (r : RegName) (code : ErrCode) (f : State → State) (s : State) :
    checkedWrite r (some code) f s = .next (busErrorCycle code r.addr s) := rfl

/-- A capture keeps an error that is recorded (R306). -/
theorem capture_of_err {c : ErrCapture} (h : c.err = true) (code : ErrCode) (a : Addr) :
    capture c code a = { c with ovf := true } := by simp [capture, h]

/-- A capture records the first error (R306). -/
theorem capture_of_no_err {c : ErrCapture} (h : c.err = false) (code : ErrCode) (a : Addr) :
    capture c code a = { err := true, code := code.code, addr := a, ovf := c.ovf } := by simp [capture, h]

/-! ### Steps -/

/-- Everything a step can be (R88, R102, R130): a reset cycle, a cycle without a transaction, an illegal word, an instruction. -/
theorem step_cases {s t : State} (h : step s = .next t) :
    ∃ c rest, s.stim = c :: rest ∧
      ((c.rst = true ∧ t = resetBlock (s.withInputs c.pins rest)) ∨
       (c.rst = false ∧ c.req = none ∧ t = idleCycle (s.withInputs c.pins rest)) ∨
       (∃ w e, c.rst = false ∧ c.req = some w ∧ decode w = .error e ∧
          t = busErrorCycle e (busAddr w) (s.withInputs c.pins rest)) ∨
       (∃ w i, c.rst = false ∧ c.req = some w ∧ decode w = .ok i ∧
          exec i (s.withInputs c.pins rest) = .next t)) := by
  unfold step at h
  cases hs : s.stim with
  | nil => simp [takeInputs, hs] at h
  | cons c rest =>
    refine ⟨c, rest, rfl, ?_⟩
    simp only [takeInputs, hs] at h
    cases hr : c.rst with
    | true => left; simp [hr] at h; exact ⟨rfl, h.symm⟩
    | false =>
      right
      cases hq : c.req with
      | none => left; simp [hr, hq] at h; exact ⟨rfl, rfl, h.symm⟩
      | some w =>
        right
        cases hd : decode w with
        | error e => left; simp [hr, hq, hd] at h; exact ⟨w, e, rfl, rfl, hd, h.symm⟩
        | ok i => right; simp [hr, hq, hd] at h; exact ⟨w, i, rfl, rfl, hd, h⟩

end Sys2Proof.Machine
end

