-- ==== Sys2Proof/Laws/Encoder.lean ====
section
/-! SUPPORT. The encoder's phases, each said once: what a cycle's edges and its strobe do to the encoder state, the direction table
by its two changes, and that the phases do not read the flags, the error record and the bus. -/

namespace Sys2Proof.Machine

/-! ### Edges -/

@[simp] theorem edgeCount_le (s : State) : edgeCount s ≤ 2 := by
  unfold edgeCount
  have := Bool.toNat_le (edgeA s)
  have := Bool.toNat_le (edgeB s)
  omega

/-- No edge: neither channel changed, channel B being looked at in quadrature mode only (R152). -/
theorem edgeCount_eq_zero {s : State} :
    edgeCount s = 0 ↔ s.pins.a = s.enc.aQ ∧ (s.regs.quad = true → s.pins.b = s.enc.bQ) := by
  unfold edgeCount edgeA edgeB
  cases s.pins.a <;> cases s.enc.aQ <;> cases s.regs.quad <;> cases s.pins.b <;> cases s.enc.bQ <;> decide

/-- What the edges of a cycle do to the encoder state (R155, R157, R158, R160, R161). -/
theorem encEdge_n_enc (s : State) (c : Cycle) :
    (encEdge s c).n.enc =
      if edgeCount s = 0 then c.n.enc
      else if s.regs.quad then
        { c.n.enc with
          count := s.enc.count + BitVec.ofNat 32 (edgeCount s)
          hist := nextHist s.enc.hist (pairOf s.pins.a s.pins.b)
          dirLive := tableDir (nextHist s.enc.hist (pairOf s.pins.a s.pins.b))
          lastNeg := nextLastNeg (tableDir (nextHist s.enc.hist (pairOf s.pins.a s.pins.b))) s.enc.lastNeg }
      else { c.n.enc with count := s.enc.count + BitVec.ofNat 32 (edgeCount s) } := by
  unfold encEdge; dsimp only; split
  · rfl
  · split <;> rfl

/-- When an edge sets the INVALID flag (R159). -/
theorem encEdge_set_inv (s : State) (c : Cycle) :
    (encEdge s c).set.inv =
      (c.set.inv || (decide (edgeCount s ≠ 0) && s.regs.quad &&
        decide (tableDir (nextHist s.enc.hist (pairOf s.pins.a s.pins.b)) = .invalid))) := by
  unfold encEdge; dsimp only
  split
  · simp_all
  · split
    · split <;> simp_all
    · simp_all [Cycle.withEnc]

/-- What the sample phase does to the encoder state (R162 to R165). -/
theorem encSample_n_enc (s : State) (c : Cycle) :
    (encSample s c).n.enc =
      if s.enc.scnt.toNat + 1 = s.regs.sper.toNat then
        { c.n.enc with
          pubCount := c.n.enc.count
          pubDir := c.n.enc.dirLive
          pubSpeed := speedMag s.params s.regs (c.n.enc.count - s.enc.base)
          pubNeg := publishedNeg s.regs.quad c.n.enc.dirLive c.n.enc.lastNeg
          base := c.n.enc.count
          scnt := 0#32 }
      else { c.n.enc with scnt := s.enc.scnt + 1#32 } := by
  unfold encSample; split <;> rfl

/-- The encoder state after this cycle's edges, the previous levels taken (R151, R155 to R161). -/
def edgedEnc (s : State) : EncState := (encEdge s (inputSampling s (cycleStart s))).n.enc

/-- That state, written out. -/
theorem edgedEnc_eq (s : State) :
    edgedEnc s =
      if edgeCount s = 0 then { s.enc with aQ := s.pins.a, bQ := s.pins.b }
      else if s.regs.quad then
        { s.enc with
          aQ := s.pins.a
          bQ := s.pins.b
          count := s.enc.count + BitVec.ofNat 32 (edgeCount s)
          hist := nextHist s.enc.hist (pairOf s.pins.a s.pins.b)
          dirLive := tableDir (nextHist s.enc.hist (pairOf s.pins.a s.pins.b))
          lastNeg := nextLastNeg (tableDir (nextHist s.enc.hist (pairOf s.pins.a s.pins.b))) s.enc.lastNeg }
      else
        { s.enc with
          aQ := s.pins.a
          bQ := s.pins.b
          count := s.enc.count + BitVec.ofNat 32 (edgeCount s) } := by
  unfold edgedEnc; rw [encEdge_n_enc]; rfl

/-- The edges do not touch what a publication writes, nor the snapshot (R155 to R161). -/
theorem edgedEnc_frame (s : State) :
    (edgedEnc s).run = s.enc.run ∧ (edgedEnc s).base = s.enc.base ∧ (edgedEnc s).scnt = s.enc.scnt ∧
      (edgedEnc s).pubCount = s.enc.pubCount ∧ (edgedEnc s).pubDir = s.enc.pubDir ∧
      (edgedEnc s).pubSpeed = s.enc.pubSpeed ∧ (edgedEnc s).pubNeg = s.enc.pubNeg ∧
      (edgedEnc s).snapDir = s.enc.snapDir ∧ (edgedEnc s).snapSpeed = s.enc.snapSpeed ∧
      (edgedEnc s).snapNeg = s.enc.snapNeg ∧ (edgedEnc s).aQ = s.pins.a ∧ (edgedEnc s).bQ = s.pins.b := by
  rw [edgedEnc_eq]; split
  · simp
  · split <;> simp

/-- A running encoder's state after its phases, before a fault stops it (R152 to R165). -/
def sampledEnc (s : State) : EncState :=
  if s.enc.scnt.toNat + 1 = s.regs.sper.toNat then
    { edgedEnc s with
      pubCount := (edgedEnc s).count
      pubDir := (edgedEnc s).dirLive
      pubSpeed := speedMag s.params s.regs ((edgedEnc s).count - s.enc.base)
      pubNeg := publishedNeg s.regs.quad (edgedEnc s).dirLive (edgedEnc s).lastNeg
      base := (edgedEnc s).count
      scnt := 0#32 }
  else { edgedEnc s with scnt := s.enc.scnt + 1#32 }

/-- The encoder state after the own phases (R150, R182). -/
theorem ownPhases_enc_eq (s : State) :
    (ownPhases s).n.enc =
      if s.enc.run then { sampledEnc s with run := !s.pins.fault }
      else { s.enc with aQ := s.pins.a, bQ := s.pins.b } := by
  rw [ownPhases_enc, encSample_n_enc]
  cases he : s.enc.run
  · simp
  · unfold sampledEnc edgedEnc
    by_cases hk : s.enc.scnt.toNat + 1 = s.regs.sper.toNat <;> cases s.pins.fault <;> simp [hk, he]

/-- The own phases take the levels as the previous levels of the next cycle, running or not (R151). -/
theorem ownPhases_levels (s : State) : (ownPhases s).n.enc.aQ = s.pins.a ∧ (ownPhases s).n.enc.bQ = s.pins.b := by
  have h := edgedEnc_frame s
  rw [ownPhases_enc_eq]; unfold sampledEnc; repeat' split
  all_goals simp [h]

/-- The own phases do not touch the snapshot (R41). -/
theorem ownPhases_snapshot (s : State) :
    (ownPhases s).n.enc.snapDir = s.enc.snapDir ∧ (ownPhases s).n.enc.snapSpeed = s.enc.snapSpeed ∧
      (ownPhases s).n.enc.snapNeg = s.enc.snapNeg := by
  have h := edgedEnc_frame s
  rw [ownPhases_enc_eq]; unfold sampledEnc; repeat' split
  all_goals simp [h]

/-- The encoder runs on after the own phases unless a fault stops it (R182). -/
theorem ownPhases_enc_run (s : State) : (ownPhases s).n.enc.run = (s.enc.run && !s.pins.fault) := by
  rw [ownPhases_enc_eq]; split <;> simp_all

/-- The sets of sticky flags of the own phases, written out (R159, R164, R182, R209, R211). -/
theorem ownPhases_set_eq (s : State) :
    (ownPhases s).set =
      { pub := s.enc.run && decide (s.enc.scnt.toNat + 1 = s.regs.sper.toNat)
        inv := s.enc.run && (decide (edgeCount s ≠ 0) && s.regs.quad &&
          decide (tableDir (nextHist s.enc.hist (pairOf s.pins.a s.pins.b)) = .invalid))
        encf := s.enc.run && s.pins.fault
        mcf := s.enc.run && s.pins.fault && s.mc.run
        pidsat := s.mc.run && decide (s.mc.mcnt = 0#32) && (controlTick s).pidSat
        dutysat := s.mc.run && decide (s.mc.mcnt = 0#32) && decide (65536 < (controlTick s).du.natAbs) } := by
  rw [ownPhases_set, encEdge_set_inv]; rfl

/-! ### The direction table (R156) -/

/-- The table entry of an edge, by which channels changed: two changes are INVALID, one is never STOP (R184). -/
theorem tableDir_change (a b a' b' : Bool) (h : (a, b) ≠ (a', b')) :
    tableDir (pairOf a b ++ pairOf a' b') ≠ .stop ∧
      (tableDir (pairOf a b ++ pairOf a' b') = .invalid ↔ (a ≠ a' ∧ b ≠ b')) := by
  revert a b a' b'; decide

/-- The history after an edge, where the old one ends in the previous pair (R155, R183). -/
theorem nextHist_of_low {h : BitVec 4} {a b : Bool} (hl : h.extractLsb' 0 2 = pairOf a b) (a' b' : Bool) :
    nextHist h (pairOf a' b') = pairOf a b ++ pairOf a' b' := by
  unfold nextHist; rw [hl]

/-- The low half of the new history is the current pair (R155). -/
theorem nextHist_low (h : BitVec 4) (p : BitVec 2) : (nextHist h p).extractLsb' 0 2 = p := by
  revert h p; decide

/-- The new history as a number: four times the old current pair plus the new one (R155). -/
theorem nextHist_toNat (h : BitVec 4) (a b : Bool) :
    (nextHist h (pairOf a b)).toNat = 4 * (h.toNat % 4) + 2 * a.toNat + b.toNat := by
  revert h a b; decide

/-! ### The published speed (R163) -/

/-- The divisor of the speed is not 0 where the configuration is legal. -/
theorem speedDivisor_pos {r : Regs} (hs : r.sper ≠ 0#32) (hr : r.res ≠ 0#16) :
    0 < r.sper.toNat * edgesPerUnit r.quad * r.res.toNat := by
  have h1 : 0 < r.sper.toNat := Nat.pos_of_ne_zero (by simpa [BitVec.toNat_eq] using hs)
  have h2 : 0 < r.res.toNat := Nat.pos_of_ne_zero (by simpa [BitVec.toNat_eq] using hr)
  have h3 : 0 < edgesPerUnit r.quad := by unfold edgesPerUnit; split <;> omega
  positivity

/-- The speed magnitude is at most 2^31 - 1 (R56, R163). -/
theorem speedMag_lt (p : Params) (r : Regs) (d : Word) : (speedMag p r d).toNat < 2147483648 := by
  unfold speedMag; rw [BitVec.toNat_ofNat]; omega

/-- The speed magnitude, written out (R11, R163). -/
theorem speedMag_toNat (p : Params) {r : Regs} (d : Word) (hs : r.sper ≠ 0#32) (hr : r.res ≠ 0#16) :
    (speedMag p r d).toNat =
      min ((2 * (d.toNat * p.fClk * 65536) + r.sper.toNat * edgesPerUnit r.quad * r.res.toNat) /
        (2 * (r.sper.toNat * edgesPerUnit r.quad * r.res.toNat))) 2147483647 := by
  unfold speedMag
  rw [BitVec.toNat_ofNat, rnd_natCast _ _ (speedDivisor_pos hs hr), Int.toNat_natCast]
  exact Nat.mod_eq_of_lt (lt_of_le_of_lt (Nat.min_le_right _ _) (by decide))

end Sys2Proof.Machine
end

