-- ==== Sys2Proof/Laws/Exec.lean ====
section
/-! SUPPORT. What each instruction does, said over the shared operations: one lemma per instruction, which the later proofs cite
instead of unfolding the meanings. -/

namespace Sys2Proof.Machine

/-- A performed read is the cycle without a transaction, with the register's value as the response (R130, R131). -/
theorem readRegister_eq (r : RegName) (s : State) :
    readRegister r s = { idleCycle s with bus := { rdata := regRead s r, err := false } } := rfl

@[simp] theorem exec_rdId (s : State) : exec .rdId s = .next (readRegister .id s) := rfl
@[simp] theorem exec_rdCmd (s : State) : exec .rdCmd s = .next (readRegister .cmd s) := rfl
@[simp] theorem exec_rdStatus (s : State) : exec .rdStatus s = .next (readRegister .status s) := rfl
@[simp] theorem exec_rdErrCause (s : State) : exec .rdErrCause s = .next (readRegister .errCause s) := rfl
@[simp] theorem exec_rdEncCfg (s : State) : exec .rdEncCfg s = .next (readRegister .encCfg s) := rfl
@[simp] theorem exec_rdEncRes (s : State) : exec .rdEncRes s = .next (readRegister .encRes s) := rfl
@[simp] theorem exec_rdEncSper (s : State) : exec .rdEncSper s = .next (readRegister .encSper s) := rfl
@[simp] theorem exec_rdEncDir (s : State) : exec .rdEncDir s = .next (readRegister .encDir s) := rfl
@[simp] theorem exec_rdEncSpeed (s : State) : exec .rdEncSpeed s = .next (readRegister .encSpeed s) := rfl
@[simp] theorem exec_rdEncSspeed (s : State) : exec .rdEncSspeed s = .next (readRegister .encSspeed s) := rfl
@[simp] theorem exec_rdEncDbg (s : State) : exec .rdEncDbg s = .next (readRegister .encDbg s) := rfl
@[simp] theorem exec_rdMcTarget (s : State) : exec .rdMcTarget s = .next (readRegister .mcTarget s) := rfl
@[simp] theorem exec_rdMcKp (s : State) : exec .rdMcKp s = .next (readRegister .mcKp s) := rfl
@[simp] theorem exec_rdMcKi (s : State) : exec .rdMcKi s = .next (readRegister .mcKi s) := rfl
@[simp] theorem exec_rdMcKd (s : State) : exec .rdMcKd s = .next (readRegister .mcKd s) := rfl
@[simp] theorem exec_rdMcMinDuty (s : State) : exec .rdMcMinDuty s = .next (readRegister .mcMinDuty s) := rfl
@[simp] theorem exec_rdMcMaxSpeed (s : State) : exec .rdMcMaxSpeed s = .next (readRegister .mcMaxSpeed s) := rfl
@[simp] theorem exec_rdMcPeriod (s : State) : exec .rdMcPeriod s = .next (readRegister .mcPeriod s) := rfl
@[simp] theorem exec_rdMcPwmFreq (s : State) : exec .rdMcPwmFreq s = .next (readRegister .mcPwmFreq s) := rfl
@[simp] theorem exec_rdMcPat (s : State) : exec .rdMcPat s = .next (readRegister .mcPat s) := rfl
@[simp] theorem exec_rdMcSpeed (s : State) : exec .rdMcSpeed s = .next (readRegister .mcSpeed s) := rfl
@[simp] theorem exec_rdMcPrevErr (s : State) : exec .rdMcPrevErr s = .next (readRegister .mcPrevErr s) := rfl
@[simp] theorem exec_rdMcIntegral (s : State) : exec .rdMcIntegral s = .next (readRegister .mcIntegral s) := rfl
@[simp] theorem exec_rdMcOutput (s : State) : exec .rdMcOutput s = .next (readRegister .mcOutput s) := rfl
@[simp] theorem exec_rdMcDuty (s : State) : exec .rdMcDuty s = .next (readRegister .mcDuty s) := rfl
@[simp] theorem exec_rdMcOut (s : State) : exec .rdMcOut s = .next (readRegister .mcOut s) := rfl
@[simp] theorem exec_rdMcPwmFreqOut (s : State) : exec .rdMcPwmFreqOut s = .next (readRegister .mcPwmFreqOut s) := rfl
@[simp] theorem exec_rdEncCount (s : State) :
    exec .rdEncCount s = .next (readCycle s.enc.pubCount (takeSnapshot s) s) := rfl
@[simp] theorem exec_wrStatus (v : Word) (s : State) :
    exec (.wrStatus v) s = .next (writeCycle (statusClears v) id s) := rfl
@[simp] theorem exec_wrEncCfg (v : Word) (s : State) :
    exec (.wrEncCfg v) s = checkedWrite .encCfg (checkEncStopped s) (writeEncCfg (v.getLsbD 0)) s := rfl
@[simp] theorem exec_wrEncRes (v : Word) (s : State) :
    exec (.wrEncRes v) s =
      checkedWrite .encRes (checkEncStopped s) (fun n => n.withRegs { n.regs with res := resOperand v }) s := rfl
@[simp] theorem exec_wrEncSper (v : Word) (s : State) :
    exec (.wrEncSper v) s =
      checkedWrite .encSper (checkEncStopped s) (fun n => n.withRegs { n.regs with sper := v }) s := rfl
@[simp] theorem exec_wrMcTarget (v : Word) (s : State) :
    exec (.wrMcTarget v) s = .next (writeCycle Sticky.none (fun n => n.withRegs { n.regs with target := v }) s) := rfl
@[simp] theorem exec_wrMcKp (v : Word) (s : State) :
    exec (.wrMcKp v) s =
      checkedWrite .mcKp (checkMcStopped s) (fun n => n.withRegs { n.regs with kp := v }) s := rfl
@[simp] theorem exec_wrMcKi (v : Word) (s : State) :
    exec (.wrMcKi v) s =
      checkedWrite .mcKi (checkMcStopped s) (fun n => n.withRegs { n.regs with ki := v }) s := rfl
@[simp] theorem exec_wrMcKd (v : Word) (s : State) :
    exec (.wrMcKd v) s =
      checkedWrite .mcKd (checkMcStopped s) (fun n => n.withRegs { n.regs with kd := v }) s := rfl
@[simp] theorem exec_wrMcMinDuty (v : Word) (s : State) :
    exec (.wrMcMinDuty v) s =
      checkedWrite .mcMinDuty (checkMcStopped s) (fun n => n.withRegs { n.regs with minDuty := minDutyOperand v }) s := rfl
@[simp] theorem exec_wrMcMaxSpeed (v : Word) (s : State) :
    exec (.wrMcMaxSpeed v) s =
      checkedWrite .mcMaxSpeed (checkMcStopped s) (fun n => n.withRegs { n.regs with maxSpeed := v }) s := rfl
@[simp] theorem exec_wrMcPeriod (v : Word) (s : State) :
    exec (.wrMcPeriod v) s =
      checkedWrite .mcPeriod (checkMcStopped s) (fun n => n.withRegs { n.regs with period := v }) s := rfl
@[simp] theorem exec_wrMcPwmFreq (v : Word) (s : State) :
    exec (.wrMcPwmFreq v) s =
      checkedWrite .mcPwmFreq (checkMcStopped s) (fun n => n.withRegs { n.regs with pwmFreq := v }) s := rfl
@[simp] theorem exec_wrMcPat (v : Word) (s : State) :
    exec (.wrMcPat v) s = checkedWrite .mcPat (checkMcStopped s) (writeMcPat v) s := rfl
@[simp] theorem exec_cmdNop (s : State) : exec .cmdNop s = .next (writeCycle Sticky.none id s) := rfl
@[simp] theorem exec_cmdEncStart (s : State) :
    exec .cmdEncStart s = checkedWrite .cmd (checkEncStart s) (fun n => n.withEnc (encInit s n.enc)) s := rfl
@[simp] theorem exec_cmdEncStop (s : State) :
    exec .cmdEncStop s =
      checkedWrite .cmd (checkEncStop s) (fun n => n.withEnc (encClear { n.enc with run := false } s.regs.quad)) s := rfl
@[simp] theorem exec_cmdMcStart (s : State) :
    exec .cmdMcStart s = checkedWrite .cmd (checkMcStart s) (loopInit s) s := rfl
@[simp] theorem exec_cmdMcStop (s : State) : exec .cmdMcStop s = .next (writeCycle Sticky.none loopClear s) := rfl
@[simp] theorem exec_cmdClrErr (s : State) : exec .cmdClrErr s = .next (writeCycle Sticky.none clearErr s) := rfl
@[simp] theorem exec_cmdSoftReset (s : State) : exec .cmdSoftReset s = .next (resetBlock s) := rfl

/-- A read's instruction is its register's read cycle, but for ENC_COUNT, which takes the snapshot too. -/
theorem exec_readOf (r : RegName) (s : State) :
    exec (readOf r) s =
      .next (if r = .encCount then readCycle s.enc.pubCount (takeSnapshot s) s else readRegister r s) := by
  cases r <;> rfl

/-- What a checked write can end in. -/
theorem checkedWrite_cases {r : RegName} {check : Option ErrCode} {f : State → State} {s t : State}
    (h : checkedWrite r check f s = .next t) :
    (∃ code, check = some code ∧ t = busErrorCycle code r.addr s) ∨
      (check = none ∧ t = writeCycle Sticky.none f s) := by
  cases check with
  | none => exact Or.inr ⟨rfl, (Host.Outcome.next.inj h).symm⟩
  | some code => exact Or.inl ⟨code, rfl, (Host.Outcome.next.inj h).symm⟩

/-- Every instruction completes in its cycle. -/
theorem exec_completes (i : Instr) (s : State) : ∃ t, exec i s = .next t := by
  have hc : ∀ r check f, ∃ t, checkedWrite r check f s = .next t := by
    intro r check f
    cases check <;> exact ⟨_, rfl⟩
  cases i <;> first | exact ⟨_, rfl⟩ | exact hc _ _ _

/-! ### One form for all instructions -/

/-- The checks of an instruction that can fail, in order (R304). -/
def checks (s : State) : Instr → Option ErrCode
  | .wrEncCfg _ | .wrEncRes _ | .wrEncSper _ => checkEncStopped s
  | .wrMcKp _ | .wrMcKi _ | .wrMcKd _ | .wrMcMinDuty _ | .wrMcMaxSpeed _ | .wrMcPeriod _ | .wrMcPwmFreq _
  | .wrMcPat _ => checkMcStopped s
  | .cmdEncStart => checkEncStart s
  | .cmdEncStop => checkEncStop s
  | .cmdMcStart => checkMcStart s
  | _ => none

/-- What a performed instruction does to the state under construction (R88 phase 6). -/
def effect (s : State) : Instr → State → State
  | .rdEncCount, n => takeSnapshot s n
  | .wrEncCfg v, n => writeEncCfg (v.getLsbD 0) n
  | .wrEncRes v, n => n.withRegs { n.regs with res := resOperand v }
  | .wrEncSper v, n => n.withRegs { n.regs with sper := v }
  | .wrMcTarget v, n => n.withRegs { n.regs with target := v }
  | .wrMcKp v, n => n.withRegs { n.regs with kp := v }
  | .wrMcKi v, n => n.withRegs { n.regs with ki := v }
  | .wrMcKd v, n => n.withRegs { n.regs with kd := v }
  | .wrMcMinDuty v, n => n.withRegs { n.regs with minDuty := minDutyOperand v }
  | .wrMcMaxSpeed v, n => n.withRegs { n.regs with maxSpeed := v }
  | .wrMcPeriod v, n => n.withRegs { n.regs with period := v }
  | .wrMcPwmFreq v, n => n.withRegs { n.regs with pwmFreq := v }
  | .wrMcPat v, n => writeMcPat v n
  | .cmdEncStart, n => n.withEnc (encInit s n.enc)
  | .cmdEncStop, n => n.withEnc (encClear { n.enc with run := false } s.regs.quad)
  | .cmdMcStart, n => loopInit s n
  | .cmdMcStop, n => loopClear n
  | .cmdClrErr, n => clearErr n
  | _, n => n

/-- The sticky flags an instruction clears (R139). -/
def clears : Instr → Sticky
  | .wrStatus v => statusClears v
  | _ => Sticky.none

/-- The data an instruction returns (R130, R131). -/
def answer (s : State) (i : Instr) : Word := if (fieldsOf i).1 then 0#32 else regRead s (fieldsOf i).2.1

/-- The state after a performed instruction. -/
def performed (s : State) (i : Instr) : State :=
  finish s
    { ownPhases s with
      n := (effect s i (ownPhases s).n).withBus { rdata := answer s i, err := false }
      clr := clears i }

/-- Every instruction but SOFT_RESET is refused by its checks or performed (R130, R303). -/
theorem exec_eq (i : Instr) (s : State) (hi : i ≠ .cmdSoftReset) :
    exec i s = .next
      (match checks s i with
        | some code => busErrorCycle code (fieldsOf i).2.1.addr s
        | none => performed s i) := by
  have hw : ∀ (r : RegName) (chk : Option ErrCode) (f : State → State),
      checkedWrite r chk f s = .next (match chk with
        | some code => busErrorCycle code r.addr s
        | none => writeCycle Sticky.none f s) := by
    intro r chk f; cases chk <;> rfl
  have hr : ∀ (v : Word) (f : State → State),
      readCycle v f s = finish s
        { ownPhases s with n := (f (ownPhases s).n).withBus { rdata := v, err := false }, clr := Sticky.none } := by
    intro v f
    have := ownPhases_clr s
    unfold readCycle; dsimp only; rw [this]
  cases i
  case cmdSoftReset => exact absurd rfl hi
  all_goals first
    | (simp only [exec_wrEncCfg, exec_wrEncRes, exec_wrEncSper, exec_wrMcKp, exec_wrMcKi, exec_wrMcKd, exec_wrMcMinDuty,
        exec_wrMcMaxSpeed, exec_wrMcPeriod, exec_wrMcPwmFreq, exec_wrMcPat, exec_cmdEncStart, exec_cmdEncStop,
        exec_cmdMcStart, hw]; rfl)
    | rfl
    | exact congrArg _ (hr _ _)

/-! ### The checks in words -/

theorem checkEncStopped_of_run {s : State} (h : s.enc.run = true) : checkEncStopped s = some .busyConfig := by
  simp [checkEncStopped, h]
theorem checkEncStopped_of_stopped {s : State} (h : s.enc.run = false) : checkEncStopped s = none := by
  simp [checkEncStopped, h]
theorem checkMcStopped_of_run {s : State} (h : s.mc.run = true) : checkMcStopped s = some .busyConfig := by
  simp [checkMcStopped, h]
theorem checkMcStopped_of_stopped {s : State} (h : s.mc.run = false) : checkMcStopped s = none := by
  simp [checkMcStopped, h]

/-- When ENC_START is performed (R180). -/
theorem checkEncStart_eq_none {s : State} :
    checkEncStart s = none ↔
      s.enc.run = false ∧ s.regs.res ≠ 0#16 ∧ s.regs.sper ≠ 0#32 ∧ s.pins.fault = false := by
  unfold checkEncStart
  repeat' split
  all_goals simp_all

/-- When MC_START is performed (R214). -/
theorem checkMcStart_eq_none {s : State} :
    checkMcStart s = none ↔
      s.mc.run = false ∧ (s.enc.run = true ∨ (s.regs.res ≠ 0#16 ∧ s.regs.sper ≠ 0#32)) ∧ 2 ≤ s.regs.period.toNat ∧
        s.regs.maxSpeed ≠ 0#32 ∧ s.pins.fault = false := by
  unfold checkMcStart
  repeat' split
  all_goals simp_all
  all_goals first | omega | (cases he : s.enc.run <;> simp_all <;> omega)

end Sys2Proof.Machine
end

