-- ==== Sys2Proof/Laws/Loop.lean ====
section
/-! SUPPORT. The control loop's phase, said once: a cycle without a tick, a tick's computation with the free values gone where the
configuration is legal, and the bounds of what it stores. -/

namespace Sys2Proof.Machine

/-- The loop state after the own phases, written out (R200 to R202, R208, R210, R211, R182). -/
theorem ownPhases_mc_eq (s : State) :
    (ownPhases s).n.mc =
      if s.mc.run then
        if s.enc.run && s.pins.fault then mcClear s.mc
        else
          if s.mc.mcnt = 0#32 then
            { storeTick (controlTick s) s (applyPending s s.mc) with
              mcnt := BitVec.ofNat 32 (modulo (s.mc.mcnt.toNat + 1) s.regs.period.toNat) }
          else
            { applyPending s s.mc with
              mcnt := BitVec.ofNat 32 (modulo (s.mc.mcnt.toNat + 1) s.regs.period.toNat) }
      else s.mc := by
  rw [ownPhases_mc, mcCycle_n_mc]; rfl

/-- The own phases keep the frequency on the port (R201, R213). -/
theorem ownPhases_pwmFreqOut (s : State) : (ownPhases s).n.mc.pwmFreqOut = s.mc.pwmFreqOut := by
  rw [ownPhases_mc_eq]; repeat' split
  all_goals simp [mcClear, storeTick]

/-- The loop runs on after the own phases unless a fault stops it (R182). -/
theorem ownPhases_mc_run (s : State) : (ownPhases s).n.mc.run = (s.mc.run && !(s.enc.run && s.pins.fault)) := by
  rw [ownPhases_mc_eq]
  cases hm : s.mc.run <;> cases s.enc.run <;> cases s.pins.fault <;> by_cases h0 : s.mc.mcnt = 0#32 <;>
    simp [h0, hm, mcClear, storeTick]

@[simp] theorem applyPending_dirsel (s : State) (m : McState) : (applyPending s m).dirsel = m.dirsel := by
  unfold applyPending; split <;> rfl

/-- The selected pattern after the own phases (R182, R210). -/
theorem ownPhases_dirsel (s : State) :
    (ownPhases s).n.mc.dirsel =
      if s.mc.run && s.enc.run && s.pins.fault then .stop
      else if s.mc.run && decide (s.mc.mcnt = 0#32) then
        nextDirsel (controlTick s).du (controlTick s).cur s.mc.dirsel
      else s.mc.dirsel := by
  rw [ownPhases_mc_eq]
  cases hm : s.mc.run <;> cases s.enc.run <;> cases s.pins.fault <;> by_cases h0 : s.mc.mcnt = 0#32 <;>
    simp [h0, mcClear, storeTick]

/-- The pattern a tick selects is never STOP unless it was (R210). -/
theorem nextDirsel_ne_stop {old : DirSel} (h : old ≠ .stop) (du cur : Int) : nextDirsel du cur old ≠ .stop := by
  unfold nextDirsel; repeat' split
  all_goals simp_all

/-- A PWM duty as a number (R211). -/
theorem pwmOf_toNat (du : Int) : (pwmOf du).toNat = min du.natAbs 65536 := by
  unfold pwmOf; rw [BitVec.toNat_ofNat]
  exact Nat.mod_eq_of_lt (lt_of_le_of_lt (Nat.min_le_right _ _) (by decide))

/-- The period counter after a cycle, as a number, with a legal period (R201). -/
theorem nextCount_toNat {n p : Nat} (hn : n < p) (hp : p < 2 ^ 32) :
    (BitVec.ofNat 32 (modulo (n + 1) p)).toNat = if n + 1 = p then 0 else n + 1 := by
  rw [BitVec.toNat_ofNat, modulo_of_pos _ _ (by omega)]
  split
  · subst p; simp
  · rw [Nat.mod_eq_of_lt (show n + 1 < p by omega)]; omega

end Sys2Proof.Machine
end

