-- ==== Sys2Proof/Laws/Step.lean ====
section
/-! SUPPORT. What a step can do, said once in terms of the cycle without a transaction: reset, that cycle, that cycle with an error
answer, or that cycle with a performed instruction's effect. Invariants and frames are derived from `step_form`. -/

namespace Sys2Proof.Machine

/-! ### Effects: what no instruction touches -/

@[simp] theorem loopInit_params (s n : State) : (loopInit s n).params = n.params := by unfold loopInit; split <;> rfl
@[simp] theorem loopInit_flags (s n : State) : (loopInit s n).flags = n.flags := by unfold loopInit; split <;> rfl
@[simp] theorem loopInit_pins (s n : State) : (loopInit s n).pins = n.pins := by unfold loopInit; split <;> rfl
@[simp] theorem loopInit_stim (s n : State) : (loopInit s n).stim = n.stim := by unfold loopInit; split <;> rfl
@[simp] theorem loopInit_cap (s n : State) : (loopInit s n).cap = n.cap := by unfold loopInit; split <;> rfl
@[simp] theorem loopInit_regs (s n : State) : (loopInit s n).regs = n.regs := by unfold loopInit; split <;> rfl
@[simp] theorem loopInit_mc (s n : State) : (loopInit s n).mc = mcInit s n.mc := by unfold loopInit; split <;> rfl
theorem loopInit_enc (s n : State) : (loopInit s n).enc = if s.enc.run then n.enc else encInit s n.enc := by
  unfold loopInit; split <;> rfl

@[simp] theorem effect_params (s : State) (i : Instr) (n : State) : (effect s i n).params = n.params := by
  cases i <;> first | rfl | exact loopInit_params s n
@[simp] theorem effect_flags (s : State) (i : Instr) (n : State) : (effect s i n).flags = n.flags := by
  cases i <;> first | rfl | exact loopInit_flags s n
@[simp] theorem effect_pins (s : State) (i : Instr) (n : State) : (effect s i n).pins = n.pins := by
  cases i <;> first | rfl | exact loopInit_pins s n
@[simp] theorem effect_stim (s : State) (i : Instr) (n : State) : (effect s i n).stim = n.stim := by
  cases i <;> first | rfl | exact loopInit_stim s n

/-- Only CLR_ERR touches the error record (R142). -/
theorem effect_cap (s : State) {i : Instr} (hi : i ≠ .cmdClrErr) (n : State) : (effect s i n).cap = n.cap := by
  cases i <;> first | rfl | exact loopInit_cap s n | exact absurd rfl hi

/-- The instructions that touch the encoder state: the snapshot, the starts and the stop, and ENC_CFG. -/
theorem effect_enc (s : State) {i : Instr} (n : State)
    (h : i ≠ .rdEncCount ∧ (∀ v, i ≠ .wrEncCfg v) ∧ i ≠ .cmdEncStart ∧ i ≠ .cmdEncStop ∧ i ≠ .cmdMcStart) :
    (effect s i n).enc = n.enc := by
  obtain ⟨h1, h2, h3, h4, h5⟩ := h
  cases i
  case rdEncCount => exact absurd rfl h1
  case wrEncCfg v => exact absurd rfl (h2 v)
  case cmdEncStart => exact absurd rfl h3
  case cmdEncStop => exact absurd rfl h4
  case cmdMcStart => exact absurd rfl h5
  all_goals rfl

/-- The levels of the previous cycle are touched by no instruction (R151). -/
theorem effect_levels (s : State) (i : Instr) (n : State) :
    (effect s i n).enc.aQ = n.enc.aQ ∧ (effect s i n).enc.bQ = n.enc.bQ := by
  cases i
  case cmdMcStart =>
    show (loopInit s n).enc.aQ = _ ∧ (loopInit s n).enc.bQ = _
    rw [loopInit_enc]; split <;> exact ⟨rfl, rfl⟩
  all_goals exact ⟨rfl, rfl⟩

/-- Only the loop's start and stop touch the loop's state (R212, R213). -/
theorem effect_mc (s : State) {i : Instr} (n : State) (h : i ≠ .cmdMcStart ∧ i ≠ .cmdMcStop) :
    (effect s i n).mc = n.mc := by
  obtain ⟨h1, h2⟩ := h
  cases i
  case cmdMcStart => exact absurd rfl h1
  case cmdMcStop => exact absurd rfl h2
  all_goals rfl

/-! ### Performed instructions -/

@[simp] theorem performed_params (s : State) (i : Instr) : (performed s i).params = s.params := by simp [performed]
@[simp] theorem performed_pins (s : State) (i : Instr) : (performed s i).pins = s.pins := by simp [performed]
@[simp] theorem performed_stim (s : State) (i : Instr) : (performed s i).stim = s.stim := by simp [performed]
@[simp] theorem performed_enc (s : State) (i : Instr) : (performed s i).enc = (effect s i (ownPhases s).n).enc := rfl
@[simp] theorem performed_mc (s : State) (i : Instr) : (performed s i).mc = (effect s i (ownPhases s).n).mc := rfl
@[simp] theorem performed_regs (s : State) (i : Instr) : (performed s i).regs = (effect s i (ownPhases s).n).regs := rfl
@[simp] theorem performed_bus (s : State) (i : Instr) : (performed s i).bus = { rdata := answer s i, err := false } := rfl
@[simp] theorem performed_flags (s : State) (i : Instr) :
    (performed s i).flags = stickyNext s.flags (clears i) (ownPhases s).set := rfl
@[simp] theorem performed_cap (s : State) (i : Instr) :
    (performed s i).cap = captureAsync (ownPhases s).aerr (effect s i (ownPhases s).n).cap := rfl

/-! ### Steps -/

/-- Everything a step can be: a reset; a cycle without a transaction; an error answer, of an illegal word or a failed check; a
performed instruction (R88, R130, R303). -/
theorem step_form {s t : State} (h : step s = .next t) :
    ∃ c rest, s.stim = c :: rest ∧
      (((c.rst = true ∨ (c.rst = false ∧ ∃ w, c.req = some w ∧ decode w = .ok .cmdSoftReset)) ∧
          t = resetBlock (s.withInputs c.pins rest)) ∨
       (c.rst = false ∧ c.req = none ∧ t = idleCycle (s.withInputs c.pins rest)) ∨
       (c.rst = false ∧ ∃ w code, c.req = some w ∧ t = busErrorCycle code (busAddr w) (s.withInputs c.pins rest) ∧
          (decode w = .error code ∨ ∃ i, decode w = .ok i ∧ checks (s.withInputs c.pins rest) i = some code)) ∨
       (c.rst = false ∧ ∃ w i, c.req = some w ∧ decode w = .ok i ∧ i ≠ .cmdSoftReset ∧
          checks (s.withInputs c.pins rest) i = none ∧ t = performed (s.withInputs c.pins rest) i)) := by
  obtain ⟨c, rest, hs, h1 | h1 | ⟨w, e, h1, h2, h3, h4⟩ | ⟨w, i, h1, h2, h3, h4⟩⟩ := step_cases h
  · exact ⟨c, rest, hs, Or.inl ⟨Or.inl h1.1, h1.2⟩⟩
  · exact ⟨c, rest, hs, Or.inr (Or.inl h1)⟩
  · exact ⟨c, rest, hs, Or.inr (Or.inr (Or.inl ⟨h1, w, e, h2, h4, Or.inl h3⟩))⟩
  · refine ⟨c, rest, hs, ?_⟩
    by_cases hi : i = .cmdSoftReset
    · subst hi
      refine Or.inl ⟨Or.inr ⟨h1, w, h2, h3⟩, ?_⟩
      rw [exec_cmdSoftReset] at h4
      exact (Host.Outcome.next.inj h4).symm
    · rw [exec_eq i _ hi] at h4
      have h5 := (Host.Outcome.next.inj h4).symm
      have ha : busAddr w = (fieldsOf i).2.1.addr := by
        obtain ⟨r, hr, ⟨-, rfl⟩ | ⟨-, hw⟩⟩ := decode_ok_cases h3
        · simpa using hr
        · rw [fieldsOf_of_writeOf hw, hr]
      cases hc : checks (s.withInputs c.pins rest) i with
      | some code =>
        rw [hc, ← ha] at h5
        exact Or.inr (Or.inr (Or.inl ⟨h1, w, code, h2, h5, Or.inr ⟨i, h3, hc⟩⟩))
      | none =>
        rw [hc] at h5
        exact Or.inr (Or.inr (Or.inr ⟨h1, w, i, h2, h3, hi, hc, h5⟩))

/-- A word that decodes to a command is that command's word (R103). -/
theorem command_word {w : BusWord} {i : Instr} (h : decode w = .ok i) (hw : (fieldsOf i).1 = true) : w = encode i := by
  obtain ⟨r, hr, ⟨-, rfl⟩ | ⟨hb, h2⟩⟩ := decode_ok_cases h
  · simp at hw
  · unfold encode
    rw [fieldsOf_of_writeOf h2, ← hr, ← hb, busWord_fields]

end Sys2Proof.Machine
end

