-- ==== Sys2Proof/Laws/Invariant.lean ====
section
/-! SUPPORT. The invariant of Safety.lean, part by part: the block's own phases, the start of the encoder and a capture keep it. -/

namespace Sys2Proof.Machine

/-- Latching BACKWARD sets the negative sign (R158). -/
theorem nextLastNeg_backward (d : Dir) (o : Bool) : d = .backward → nextLastNeg d o = true := by rintro rfl; rfl

/-- The block's own phases keep the encoder's part of the invariant (R161, R162, R165, R183). -/
theorem ownPhases_encInv (s : State) (h : s.EncInv) : (ownPhases s).n.EncInv := by
  obtain ⟨h1, h2, h3, h4, h5⟩ := h
  have hr : (ownPhases s).n.regs.quad = s.regs.quad ∧ (ownPhases s).n.regs.res = s.regs.res ∧ (ownPhases s).n.regs.sper = s.regs.sper := by
    rw [ownPhases_regs]; split <;> simp
  have hf := edgedEnc_frame s
  have he := edgedEnc_eq s
  have hlow : s.enc.run = true → s.regs.quad = true → (edgedEnc s).hist.extractLsb' 0 2 = pairOf s.pins.a s.pins.b := by
    intro hr hq
    rw [he]
    by_cases h0 : edgeCount s = 0
    · rw [if_pos h0]; have := edgeCount_eq_zero.1 h0
      simp only; rw [h2 hr hq, this.1, this.2 hq]
    · rw [if_neg h0, if_pos hq]; exact nextHist_low _ _
  have hdir : s.regs.quad = false → (edgedEnc s).dirLive = .forward := by
    intro hq; rw [he]; split
    · exact (h3 hq).1
    · rw [if_neg (by simp [hq])]; exact (h3 hq).1
  have hneg : (edgedEnc s).dirLive = .backward → (edgedEnc s).lastNeg = true := by
    rw [he]; split
    · exact h4.1
    · split
      · exact nextLastNeg_backward _ _
      · exact h4.1
  unfold State.EncInv
  rw [hr.1, hr.2.1, hr.2.2, ownPhases_enc_eq]
  cases hrun : s.enc.run
  · simp [hrun, h5]
    exact ⟨h3, h4⟩
  · have h1 := h1 hrun
    have hpn : publishedNeg s.regs.quad (edgedEnc s).dirLive (edgedEnc s).lastNeg = true ∨ (edgedEnc s).dirLive ≠ .backward := by
      cases hq : s.regs.quad
      · right; rw [hdir hq]; decide
      · by_cases hb : (edgedEnc s).dirLive = .backward
        · left; rw [hb]; rfl
        · exact Or.inr hb
    simp only [if_true, sampledEnc]
    split
    · rename_i hk
      refine ⟨fun _ => ⟨h1.1, ?_⟩, ?_, ?_, ⟨?_, ?_, ?_⟩, ?_, ?_⟩
      · simp; omega
      · intro _ hq; simp only [hf]; exact hlow hrun hq
      · intro hq; simp only; rw [hf.2.2.2.2.2.2.2.1]; exact ⟨hdir hq, hdir hq, (h3 hq).2.2⟩
      · exact hneg
      · intro hb; simp only at hb ⊢; tauto
      · simp only [hf]; exact h4.2.2
      · exact speedMag_lt _ _ _
      · simp only [hf]; exact h5.2
    · rename_i hk
      have := s.regs.sper.isLt
      refine ⟨fun _ => ⟨h1.1, ?_⟩, ?_, ?_, ⟨?_, ?_, ?_⟩, ?_, ?_⟩
      · simp; omega
      · intro _ hq; simp only [hf]; exact hlow hrun hq
      · intro hq; simp only [hf]; exact ⟨hdir hq, (h3 hq).2⟩
      · exact hneg
      · simp only [hf]; exact h4.2.1
      · simp only [hf]; exact h4.2.2
      · simp only [hf]; exact h5.1
      · simp only [hf]; exact h5.2

/-- A PWM duty is at most 1.0 (R211). -/
theorem pwmOf_le (du : Int) : (pwmOf du).toNat ≤ 65536 := by rw [pwmOf_toNat]; omega

/-- The block's own phases keep the control loop's part of the invariant (R200 to R202, R245). -/
theorem ownPhases_mcInv (s : State) (h : s.McInv) : (ownPhases s).n.McInv := by
  obtain ⟨h1, h2, h3, ⟨h4, h5, h6⟩, h7⟩ := h
  have hr : (ownPhases s).n.regs.period = s.regs.period ∧ (ownPhases s).n.regs.maxSpeed = s.regs.maxSpeed ∧ (ownPhases s).n.regs.minDuty = s.regs.minDuty
    ∧ (ownPhases s).n.regs.patFwd = s.regs.patFwd ∧ (ownPhases s).n.regs.patBwd = s.regs.patBwd ∧ (ownPhases s).n.regs.patStop = s.regs.patStop := by
    rw [ownPhases_regs]; split <;> simp
  unfold State.McInv
  rw [hr.1, hr.2.1, hr.2.2.1, hr.2.2.2.1, hr.2.2.2.2.1, hr.2.2.2.2.2, ownPhases_params, ownPhases_enc_run]
  have hap : ∀ m, (applyPending s m).pwmDuty.toNat = if s.mc.pendV then s.mc.pendDuty.toNat else m.pwmDuty.toNat := by
    intro m; unfold applyPending; split <;> rfl
  have hap2 : ∀ m, (applyPending s m).pendDuty = m.pendDuty := by
    intro m; unfold applyPending; split <;> rfl
  have hap3 : (applyPending s s.mc).pendV = false := by
    unfold applyPending; cases h : s.mc.pendV
    · rw [if_neg (by decide)]; exact h
    · rfl
  have hd := ownPhases_dirsel s
  cases hm : s.mc.run
  · have : (ownPhases s).n.mc = s.mc := by rw [ownPhases_mc_eq, hm]; rfl
    rw [this]
    have hno : s.mc.run = true → False := by rw [hm]; decide
    refine ⟨fun h => (hno h).elim, fun h => (hno h).elim, fun _ => h3 hm, ⟨h4, h5, h6⟩, h7⟩
  · obtain ⟨a1, a2, a3, a4, a5⟩ := h1 hm
    by_cases hf : s.pins.fault = true
    · have : (ownPhases s).n.mc = mcClear s.mc := by rw [ownPhases_mc_eq]; simp [hm, a1, hf]
      rw [this]
      refine ⟨fun h => (by cases h), fun h => (by cases h), fun _ => rfl, ⟨h4, Nat.zero_le _, Nat.zero_le _⟩, h7⟩
    · simp at hf
      have hc := nextCount_toNat a4 s.regs.period.isLt
      have hds : (ownPhases s).n.mc.dirsel ≠ .stop := by
        rw [hd]; simp only [hm, a1, hf]; simp; split
        · exact nextDirsel_ne_stop a5 _ _
        · exact a5
      have hcnt : (ownPhases s).n.mc.mcnt = BitVec.ofNat 32 (modulo (s.mc.mcnt.toNat + 1) s.regs.period.toNat) := by
        rw [ownPhases_mc_eq]; simp [hm, a1, hf]; split <;> rfl
      have hpv : (ownPhases s).n.mc.pendV = true → s.mc.mcnt = 0#32 := by
        rw [ownPhases_mc_eq]; simp only [hm, a1, hf]; simp; split
        · intro; assumption
        · intro h; rw [hap3] at h; cases h
      refine ⟨fun _ => ⟨by simp [a1, hf], a2, a3, ?_, hds⟩, fun _ hp => ?_, fun h => ?_, ⟨h4, ?_, ?_⟩, h7⟩
      · rw [hcnt, hc]; split <;> omega
      · apply BitVec.eq_of_toNat_eq; rw [hcnt, hc, hpv hp]; simp; omega
      · rw [ownPhases_mc_run] at h; simp [hm, a1, hf] at h
      · rw [ownPhases_mc_eq]; simp only [hm, a1, hf]; simp; split <;> simp only [storeTick, hap] <;> split <;> assumption
      · rw [ownPhases_mc_eq]; simp only [hm, a1, hf]; simp; split
        · exact pwmOf_le _
        · simp only [hap2]; exact h6

/-- Starting the encoder gives a state that meets its part of the invariant (R178). -/
theorem encInit_encInv (s n : State) (hs : n.regs.quad = s.regs.quad) (he : n.enc.aQ = s.pins.a ∧ n.enc.bQ = s.pins.b) (hres : n.regs.res ≠ 0#16) (hsp : n.regs.sper ≠ 0#32) : (n.withEnc (encInit s n.enc)).EncInv := by
  have : 0 < n.regs.sper.toNat := Nat.pos_of_ne_zero (by simpa [← BitVec.toNat_inj] using hsp)
  refine ⟨fun _ => ⟨hres, this⟩, ?_, ?_, ⟨?_, ?_, ?_⟩, ?_, ?_⟩
  · intro _ _
    show (pairOf s.pins.a s.pins.b ++ pairOf s.pins.a s.pins.b).extractLsb' 0 2 = pairOf n.enc.aQ n.enc.bQ
    rw [he.1, he.2]; cases s.pins.a <;> cases s.pins.b <;> rfl
  · intro hq; have hq : s.regs.quad = false := hs ▸ hq
    simp [encInit, encClear, idleDir, hq]
  all_goals (simp [encInit, encClear, idleDir])
  all_goals (split <;> simp)

/-- A pattern operand has no bit at or above N_DIR (R232). -/
theorem patOperand_masked (p : Params) (v : Word) (k : Nat) : patOperand p v k &&& patMask p = patOperand p v k := by
  unfold patOperand; rw [BitVec.and_assoc, BitVec.and_self]

/-- The form of the error record: empty where no error is recorded, else a bus error's code, or the fault's with ADDR 0 (R306, R307). -/
abbrev CapOk (c : ErrCapture) : Prop :=
  (c.err = false → c = ErrCapture.none) ∧
  (c.err = true → (1 ≤ c.code.toNat ∧ c.code.toNat ≤ 12) ∨ (c.code = 0x10#8 ∧ c.addr = 0#8))

/-- The code of a bus error is 1 to 12 (R301). -/
theorem busError_code (e : ErrCode) (h : e ≠ .encHwFault) : 1 ≤ e.code.toNat ∧ e.code.toNat ≤ 12 := by cases e <;> first | exact absurd rfl h | decide

/-- A capture keeps the record in its form (R306). -/
theorem capture_keepsCapOk (c : ErrCapture) (h : CapOk c) (e : ErrCode) (a : Addr) (hh : e ≠ .encHwFault ∨ a = 0#8) : CapOk (capture c e a) := by
  unfold capture
  split
  · rename_i hc; exact ⟨fun h' => (by simp [hc] at h'), fun _ => h.2 hc⟩
  · refine ⟨fun h' => (by cases h'), fun _ => ?_⟩
    by_cases he : e = .encHwFault
    · right; subst he; simp at hh; exact ⟨rfl, hh⟩
    · left; exact busError_code e he

/-- Capturing an asynchronous error keeps the record in its form (R307). -/
theorem captureAsync_keepsCapOk (s : State) (c : ErrCapture) (h : CapOk c) : CapOk (captureAsync (ownPhases s).aerr c) := by
  rw [captureAsync_ownPhases]; split
  · exact capture_keepsCapOk  _ h _ _ (Or.inr rfl)
  · exact h

/-- The decoder raises bus errors only (R106). -/
theorem decode_error_ne_encHwFault (w : BusWord) (e) (h : decode w = .error e) : e ≠ .encHwFault := by
  rintro rfl
  unfold decode at h
  split at h
  · cases h
  split at h
  · cases h
  split at h
  · rename_i r _ _
    cases r <;> simp only [writeOf] at h <;> try cases h
    unfold commandOf at h; (repeat' split at h) <;> cases h
  · cases h

/-- The checks of an instruction raise bus errors only (R304). -/
theorem checks_ne_encHwFault (s : State) (i) (e) (h : checks s i = some e) : e ≠ .encHwFault := by
  rintro rfl
  have h1 : checkEncStopped s ≠ some .encHwFault := by unfold checkEncStopped; split <;> simp
  have h2 : checkMcStopped s ≠ some .encHwFault := by unfold checkMcStopped; split <;> simp
  have h3 : checkEncStart s ≠ some .encHwFault := by unfold checkEncStart; (repeat' split) <;> simp
  have h4 : checkEncStop s ≠ some .encHwFault := by unfold checkEncStop; split <;> simp
  have h5 : checkMcStart s ≠ some .encHwFault := by unfold checkMcStart; (repeat' split) <;> simp
  cases i <;> first | exact h1 h | exact h2 h | exact h3 h | exact h4 h | exact h5 h | cases h

end Sys2Proof.Machine
end

