-- ==== Sys2Proof/Laws/PerInstr.lean ====
section
/-! SUPPORT. One statement for every instruction: its encoding is a word of its row of spec/opcode_table.json. -/

namespace Sys2Proof.Laws.TableRow

/-- The columns "mask" and "match" of an instruction's row in spec/opcode_table.json. -/
def row : Instr → BusWord × BusWord
  | .rdId => (0x1FF00000000#41, 0x00000000000#41)
  | .rdCmd => (0x1FF00000000#41, 0x00400000000#41)
  | .rdStatus => (0x1FF00000000#41, 0x00800000000#41)
  | .rdErrCause => (0x1FF00000000#41, 0x00C00000000#41)
  | .rdEncCfg => (0x1FF00000000#41, 0x01000000000#41)
  | .rdEncRes => (0x1FF00000000#41, 0x01400000000#41)
  | .rdEncSper => (0x1FF00000000#41, 0x01800000000#41)
  | .rdEncCount => (0x1FF00000000#41, 0x01C00000000#41)
  | .rdEncDir => (0x1FF00000000#41, 0x02000000000#41)
  | .rdEncSpeed => (0x1FF00000000#41, 0x02400000000#41)
  | .rdEncSspeed => (0x1FF00000000#41, 0x02800000000#41)
  | .rdEncDbg => (0x1FF00000000#41, 0x02C00000000#41)
  | .rdMcTarget => (0x1FF00000000#41, 0x04000000000#41)
  | .rdMcKp => (0x1FF00000000#41, 0x04400000000#41)
  | .rdMcKi => (0x1FF00000000#41, 0x04800000000#41)
  | .rdMcKd => (0x1FF00000000#41, 0x04C00000000#41)
  | .rdMcMinDuty => (0x1FF00000000#41, 0x05000000000#41)
  | .rdMcMaxSpeed => (0x1FF00000000#41, 0x05400000000#41)
  | .rdMcPeriod => (0x1FF00000000#41, 0x05800000000#41)
  | .rdMcPwmFreq => (0x1FF00000000#41, 0x05C00000000#41)
  | .rdMcPat => (0x1FF00000000#41, 0x06000000000#41)
  | .rdMcSpeed => (0x1FF00000000#41, 0x06400000000#41)
  | .rdMcPrevErr => (0x1FF00000000#41, 0x06800000000#41)
  | .rdMcIntegral => (0x1FF00000000#41, 0x06C00000000#41)
  | .rdMcOutput => (0x1FF00000000#41, 0x07000000000#41)
  | .rdMcDuty => (0x1FF00000000#41, 0x07400000000#41)
  | .rdMcOut => (0x1FF00000000#41, 0x07800000000#41)
  | .rdMcPwmFreqOut => (0x1FF00000000#41, 0x07C00000000#41)
  | .wrStatus _ => (0x1FF00000000#41, 0x10800000000#41)
  | .wrEncCfg _ => (0x1FF00000000#41, 0x11000000000#41)
  | .wrEncRes _ => (0x1FF00000000#41, 0x11400000000#41)
  | .wrEncSper _ => (0x1FF00000000#41, 0x11800000000#41)
  | .wrMcTarget _ => (0x1FF00000000#41, 0x14000000000#41)
  | .wrMcKp _ => (0x1FF00000000#41, 0x14400000000#41)
  | .wrMcKi _ => (0x1FF00000000#41, 0x14800000000#41)
  | .wrMcKd _ => (0x1FF00000000#41, 0x14C00000000#41)
  | .wrMcMinDuty _ => (0x1FF00000000#41, 0x15000000000#41)
  | .wrMcMaxSpeed _ => (0x1FF00000000#41, 0x15400000000#41)
  | .wrMcPeriod _ => (0x1FF00000000#41, 0x15800000000#41)
  | .wrMcPwmFreq _ => (0x1FF00000000#41, 0x15C00000000#41)
  | .wrMcPat _ => (0x1FF00000000#41, 0x16000000000#41)
  | .cmdNop => (0x1FFFFFFFFFF#41, 0x10400000000#41)
  | .cmdEncStart => (0x1FFFFFFFFFF#41, 0x10400000001#41)
  | .cmdEncStop => (0x1FFFFFFFFFF#41, 0x10400000002#41)
  | .cmdMcStart => (0x1FFFFFFFFFF#41, 0x10400000003#41)
  | .cmdMcStop => (0x1FFFFFFFFFF#41, 0x10400000004#41)
  | .cmdClrErr => (0x1FFFFFFFFFF#41, 0x10400000005#41)
  | .cmdSoftReset => (0x1FFFFFFFFFF#41, 0x10400000006#41)

/-- The encoding of an instruction agrees with its row's match under its row's mask (R108). -/
def Statement (i : Instr) : Prop := encode i &&& (row i).1 = (row i).2

/-- Masking WE and ADDR of a word drops its data. -/
theorem busWord_mask (we : Bool) (a : Addr) (v : Word) : busWord we a v &&& 0x1FF00000000#41 = busWord we a 0#32 := by
  have h : (0x1FF00000000#41 : BusWord) = (0x1FF#9 ++ 0#32 : BitVec 41) := by decide
  rw [h]
  unfold busWord
  rw [BitVec.and_append]
  congr 1
  · have h9 : (0x1FF#9 : BitVec 9) = BitVec.allOnes 9 := by decide
    rw [h9, BitVec.and_allOnes]
  · simp

theorem rdId : Statement .rdId := by unfold Statement; decide

theorem rdCmd : Statement .rdCmd := by unfold Statement; decide

theorem rdStatus : Statement .rdStatus := by unfold Statement; decide

theorem rdErrCause : Statement .rdErrCause := by unfold Statement; decide

theorem rdEncCfg : Statement .rdEncCfg := by unfold Statement; decide

theorem rdEncRes : Statement .rdEncRes := by unfold Statement; decide

theorem rdEncSper : Statement .rdEncSper := by unfold Statement; decide

theorem rdEncCount : Statement .rdEncCount := by unfold Statement; decide

theorem rdEncDir : Statement .rdEncDir := by unfold Statement; decide

theorem rdEncSpeed : Statement .rdEncSpeed := by unfold Statement; decide

theorem rdEncSspeed : Statement .rdEncSspeed := by unfold Statement; decide

theorem rdEncDbg : Statement .rdEncDbg := by unfold Statement; decide

theorem rdMcTarget : Statement .rdMcTarget := by unfold Statement; decide

theorem rdMcKp : Statement .rdMcKp := by unfold Statement; decide

theorem rdMcKi : Statement .rdMcKi := by unfold Statement; decide

theorem rdMcKd : Statement .rdMcKd := by unfold Statement; decide

theorem rdMcMinDuty : Statement .rdMcMinDuty := by unfold Statement; decide

theorem rdMcMaxSpeed : Statement .rdMcMaxSpeed := by unfold Statement; decide

theorem rdMcPeriod : Statement .rdMcPeriod := by unfold Statement; decide

theorem rdMcPwmFreq : Statement .rdMcPwmFreq := by unfold Statement; decide

theorem rdMcPat : Statement .rdMcPat := by unfold Statement; decide

theorem rdMcSpeed : Statement .rdMcSpeed := by unfold Statement; decide

theorem rdMcPrevErr : Statement .rdMcPrevErr := by unfold Statement; decide

theorem rdMcIntegral : Statement .rdMcIntegral := by unfold Statement; decide

theorem rdMcOutput : Statement .rdMcOutput := by unfold Statement; decide

theorem rdMcDuty : Statement .rdMcDuty := by unfold Statement; decide

theorem rdMcOut : Statement .rdMcOut := by unfold Statement; decide

theorem rdMcPwmFreqOut : Statement .rdMcPwmFreqOut := by unfold Statement; decide

theorem wrStatus (v : Word) : Statement (.wrStatus v) :=
  (busWord_mask _ _ v).trans (show busWord true 0x08#8 0#32 = 0x10800000000#41 by decide)

theorem wrEncCfg (v : Word) : Statement (.wrEncCfg v) :=
  (busWord_mask _ _ v).trans (show busWord true 0x10#8 0#32 = 0x11000000000#41 by decide)

theorem wrEncRes (v : Word) : Statement (.wrEncRes v) :=
  (busWord_mask _ _ v).trans (show busWord true 0x14#8 0#32 = 0x11400000000#41 by decide)

theorem wrEncSper (v : Word) : Statement (.wrEncSper v) :=
  (busWord_mask _ _ v).trans (show busWord true 0x18#8 0#32 = 0x11800000000#41 by decide)

theorem wrMcTarget (v : Word) : Statement (.wrMcTarget v) :=
  (busWord_mask _ _ v).trans (show busWord true 0x40#8 0#32 = 0x14000000000#41 by decide)

theorem wrMcKp (v : Word) : Statement (.wrMcKp v) :=
  (busWord_mask _ _ v).trans (show busWord true 0x44#8 0#32 = 0x14400000000#41 by decide)

theorem wrMcKi (v : Word) : Statement (.wrMcKi v) :=
  (busWord_mask _ _ v).trans (show busWord true 0x48#8 0#32 = 0x14800000000#41 by decide)

theorem wrMcKd (v : Word) : Statement (.wrMcKd v) :=
  (busWord_mask _ _ v).trans (show busWord true 0x4C#8 0#32 = 0x14C00000000#41 by decide)

theorem wrMcMinDuty (v : Word) : Statement (.wrMcMinDuty v) :=
  (busWord_mask _ _ v).trans (show busWord true 0x50#8 0#32 = 0x15000000000#41 by decide)

theorem wrMcMaxSpeed (v : Word) : Statement (.wrMcMaxSpeed v) :=
  (busWord_mask _ _ v).trans (show busWord true 0x54#8 0#32 = 0x15400000000#41 by decide)

theorem wrMcPeriod (v : Word) : Statement (.wrMcPeriod v) :=
  (busWord_mask _ _ v).trans (show busWord true 0x58#8 0#32 = 0x15800000000#41 by decide)

theorem wrMcPwmFreq (v : Word) : Statement (.wrMcPwmFreq v) :=
  (busWord_mask _ _ v).trans (show busWord true 0x5C#8 0#32 = 0x15C00000000#41 by decide)

theorem wrMcPat (v : Word) : Statement (.wrMcPat v) :=
  (busWord_mask _ _ v).trans (show busWord true 0x60#8 0#32 = 0x16000000000#41 by decide)

theorem cmdNop : Statement .cmdNop := by unfold Statement; decide

theorem cmdEncStart : Statement .cmdEncStart := by unfold Statement; decide

theorem cmdEncStop : Statement .cmdEncStop := by unfold Statement; decide

theorem cmdMcStart : Statement .cmdMcStart := by unfold Statement; decide

theorem cmdMcStop : Statement .cmdMcStop := by unfold Statement; decide

theorem cmdClrErr : Statement .cmdClrErr := by unfold Statement; decide

theorem cmdSoftReset : Statement .cmdSoftReset := by unfold Statement; decide

end Sys2Proof.Laws.TableRow
end

