-- ==== Sys2Proof/Machine/Stimulus.lean ====
section
/-! DEFINITION. The stimulus language of R109 and R110: statements and pseudo-instructions, and the cycles they stand for. It is
no part of the hardware (D40): it is the form in which spec/95_test_vectors.md gives its programs. -/

namespace Sys2Proof.Machine

/-- `<reg>` of R109: a register name, or a numeric byte address. -/
inductive RegOperand where
  | name (r : RegName)
  | byte (a : Nat)
deriving DecidableEq, Repr

/-- The command mnemonics of R103, for the pseudo-instruction `CMD <mnemonic>` (R110). -/
inductive Command where
  | nop | encStart | encStop | mcStart | mcStop | clrErr | softReset
deriving DecidableEq, Repr

/-- A statement of a stimulus program (R109) or a pseudo-instruction (R110). -/
inductive Stmt where
  /-- `RST` -/
  | rst
  /-- `IDLE n` -/
  | idle (n : Nat)
  /-- `RD <reg>` -/
  | rd (r : RegOperand)
  /-- `WR <reg>, <value>` -/
  | wr (r : RegOperand) (value : Int)
  /-- `IN a=… b=… f=…`, any subset of the three -/
  | levels (a b f : Option Bool)
  /-- `CMD <mnemonic>` -/
  | cmd (c : Command)
  /-- `SETSPEED v` -/
  | setSpeed (v : Int)
  /-- `GETSPEED` -/
  | getSpeed
  /-- `SNAP` -/
  | snap
  /-- `STEPF n, g` -/
  | stepF (n g : Nat)
  /-- `STEPB n, g` -/
  | stepB (n g : Nat)
  /-- `TOGA n, g` -/
  | togA (n g : Nat)
deriving DecidableEq, Repr

/-- A register operand is a mapped name or a byte address below 256 (R80, R109). -/
def RegOperand.wf : RegOperand → Bool
  | .name _ => true
  | .byte a => decide (a < 256)

/-- A value literal has a 32-bit pattern: a 32-bit number, or a negative one with a two's complement pattern (R109, log 19). -/
def valueWf (v : Int) : Bool := decide (-2147483648 ≤ v ∧ v < 4294967296)

/-- A statement is well formed: `IDLE n` has `n >= 1` (R109), and so have the gaps `g` of the pseudo-instructions (R110). -/
def Stmt.wf : Stmt → Bool
  | .rst => true
  | .idle n => decide (1 ≤ n)
  | .rd r => r.wf
  | .wr r v => r.wf && valueWf v
  | .levels _ _ _ => true
  | .cmd _ => true
  | .setSpeed v => valueWf v
  | .getSpeed => true
  | .snap => true
  | .stepF _ g => decide (1 ≤ g)
  | .stepB _ g => decide (1 ≤ g)
  | .togA _ g => decide (1 ≤ g)

/-- The byte address of a register operand. -/
def RegOperand.addr : RegOperand → Addr
  | .name r => r.addr
  | .byte a => BitVec.ofNat 8 a

/-- The command code of a mnemonic (R103). -/
def Command.opc : Command → Int
  | .nop => 0
  | .encStart => 1
  | .encStop => 2
  | .mcStart => 3
  | .mcStop => 4
  | .clrErr => 5
  | .softReset => 6

/-- A cycle without reset at the given levels. -/
def cycleAt (p : Pins) (req : Option BusWord) : CycleIn := { rst := false, pins := p, req := req }

/-- The read word `0:<addr>:00000000` (R109). -/
def readWord (a : Addr) : BusWord := busWord false a 0#32

/-- The write word `1:<addr>:<value>` (R109). -/
def writeWord (a : Addr) (v : Int) : BusWord := busWord true a (BitVec.ofInt 32 v)

/-- The next pair in forward order 0, 2, 3, 1, 0: levels `a b` = 00, 10, 11, 01 (R110). -/
def forwardPins (p : Pins) : Pins := { p with a := !p.b, b := p.a }

/-- The next pair in backward order 0, 1, 3, 2, 0 (R110). -/
def backwardPins (p : Pins) : Pins := { p with a := p.b, b := !p.a }

/-- The levels of channel A toggled (R110, TOGA). -/
def togglePins (p : Pins) : Pins := { p with a := !p.a }

/-- `n` times: move the levels, then `g` idle cycles at them (R110). -/
def moveCycles (move : Pins → Pins) (g : Nat) : Nat → Pins → List CycleIn × Pins
  | 0, p => ([], p)
  | n + 1, p =>
    let q := move p
    let rest := moveCycles move g n q
    (List.replicate g (cycleAt q none) ++ rest.1, rest.2)

/-- The cycles of one statement, at the present levels, and the levels after it (R109, R110). -/
def Stmt.cycles (p : Pins) : Stmt → List CycleIn × Pins
  | .rst => ([{ rst := true, pins := p, req := none }], p)
  | .idle n => (List.replicate n (cycleAt p none), p)
  | .rd r => ([cycleAt p (some (readWord r.addr))], p)
  | .wr r v => ([cycleAt p (some (writeWord r.addr v))], p)
  | .levels a b f => ([], { a := a.getD p.a, b := b.getD p.b, fault := f.getD p.fault })
  | .cmd c => ([cycleAt p (some (writeWord RegName.cmd.addr c.opc))], p)
  | .setSpeed v => ([cycleAt p (some (writeWord RegName.mcTarget.addr v))], p)
  | .getSpeed => ([cycleAt p (some (readWord RegName.mcSpeed.addr))], p)
  | .snap =>
    ([cycleAt p (some (readWord RegName.encCount.addr)), cycleAt p (some (readWord RegName.encDir.addr)),
      cycleAt p (some (readWord RegName.encSpeed.addr)), cycleAt p (some (readWord RegName.encSspeed.addr))], p)
  | .stepF n g => moveCycles forwardPins g n p
  | .stepB n g => moveCycles backwardPins g n p
  | .togA n g => moveCycles togglePins g n p

/-- The cycles of a stimulus program, from the given levels (R109: they start at 0 and keep their values). -/
def stimulusCycles : Pins → List Stmt → List CycleIn
  | _, [] => []
  | p, st :: rest => (st.cycles p).1 ++ stimulusCycles (st.cycles p).2 rest

end Sys2Proof.Machine
end

