-- ==== Sys2Proof/Tests/Slice0.lean ====
section
/-! SUPPORT. Tests of one step each, with results taken from spec/95_test_vectors.md or worked out by hand from the rules, and for every
statement with hypotheses a concrete state that meets them. -/

namespace Sys2Proof.Tests

open Sys2Proof Sys2Proof.Machine Sys2Proof.Claims

/-! ### Helpers -/

/-- A field of the next state, none where the machine stops. -/
def after {α : Type} (o : Host.Outcome State Fault Refusal) (f : State → α) : Option α :=
  match o with
  | .next t => some (f t)
  | .fault _ => none
  | .refused _ => none

/-- The next state of a cycle at the pins of `s` that carries `req`, `s` where the machine stops. -/
def cycleOf (s : State) (req : Option BusWord) : State :=
  (after (step { s with stim := [cycleAt s.pins req] }) id).getD s

/-- The data a read of `r` returns in `s`, none where it is an error. -/
def readOf (s : State) (r : RegName) : Option Word :=
  let t := cycleOf s (some (readWord r.addr))
  if t.bus.err then none else some t.bus.rdata

/-- ERR_CAUSE after the word, read in the cycle after it. -/
def causeAfter (s : State) (w : BusWord) : Option Word := readOf (cycleOf s (some w)) .errCause

/-- Scenario C's configuration, both units stopped: RES 13, SPER 100, KP 1.0, MIN 0.1, MAXS 10.0, P 10 (95_test_vectors.md 1.4). -/
def configured : State :=
  { State.reset with
    regs := { Regs.reset with
      res := 13#16, sper := 100#32, target := 0x50000#32, kp := 0x10000#32, minDuty := 0x199A#17, maxSpeed := 0xA0000#32,
      period := 10#32, pwmFreq := 20000#32, patFwd := 1#8, patBwd := 2#8, patStop := 0#8 } }

/-- The encoder runs. -/
def encoderOn : State := { configured with enc := { EncState.reset with run := true } }

/-- Both units run; the next cycle of the loop is a tick. -/
def bothOn : State := { encoderOn with mc := { McState.reset with run := true, dirsel := .fwd } }

/-- The encoder runs in single-channel mode. -/
def singleOn : State :=
  { encoderOn with regs := { encoderOn.regs with quad := false }, enc := { encoderOn.enc with dirLive := .forward } }

/-- The levels of the three encoder pins. -/
def at3 (s : State) (a b f : Bool) : State := { s with pins := { a := a, b := b, fault := f } }

/-- `s` with one cycle of stimulus: its levels, no reset, the request. -/
def with1 (s : State) (req : Option BusWord) : State := { s with stim := [cycleAt s.pins req] }

/-! ### Well-formedness: ill-formed terms are refused -/

/-- R6: F_CLK is 1 to 2^32 - 1, N_DIR is 1 to 8. -/
theorem test_params_wf :
    ¬ ({ fClk := 0, nDir := 2 } : Params).wf ∧ ¬ ({ fClk := 4294967296, nDir := 2 } : Params).wf ∧
      ¬ ({ fClk := 1, nDir := 0 } : Params).wf ∧ ¬ ({ fClk := 1, nDir := 9 } : Params).wf ∧
      ({ fClk := 4294967295, nDir := 8 } : Params).wf ∧ ({ fClk := 1, nDir := 1 } : Params).wf := by decide

/-- R109, R110: an idle count or gap of 0, a byte address of 256, a value without a 32-bit pattern. -/
theorem test_stmt_wf :
    (Stmt.idle 0).wf = false ∧ (Stmt.stepF 3 0).wf = false ∧ (Stmt.stepB 3 0).wf = false ∧ (Stmt.togA 3 0).wf = false ∧
      (Stmt.rd (.byte 256)).wf = false ∧ (Stmt.wr (.byte 256) 0).wf = false ∧
      (Stmt.wr (.name .mcKp) 4294967296).wf = false ∧ (Stmt.setSpeed (-2147483649)).wf = false ∧
      (Stmt.setSpeed (-2147483648)).wf = true ∧ (Stmt.rd (.byte 255)).wf = true := by decide

/-- Every instruction is well formed: any 32-bit value may be written to any writable register (R46, R104). -/
theorem test_instr_wf : (Instr.wrEncCfg 0xFFFFFFFF#32).wf = true ∧ Instr.cmdNop.wf = true := by decide

/-! ### Decoding: the words of R100 and R103, written out -/

theorem test_decode_control :
    decode 0x00000000000#41 = .ok .rdId ∧ decode 0x00400000000#41 = .ok .rdCmd ∧
    decode 0x00800000000#41 = .ok .rdStatus ∧ decode 0x00C00000000#41 = .ok .rdErrCause ∧
    decode 0x108000007FF#41 = .ok (.wrStatus 0x7FF#32) := by decide

theorem test_decode_commands :
    decode 0x10400000000#41 = .ok .cmdNop ∧ decode 0x10400000001#41 = .ok .cmdEncStart ∧
    decode 0x10400000002#41 = .ok .cmdEncStop ∧ decode 0x10400000003#41 = .ok .cmdMcStart ∧
    decode 0x10400000004#41 = .ok .cmdMcStop ∧ decode 0x10400000005#41 = .ok .cmdClrErr ∧
    decode 0x10400000006#41 = .ok .cmdSoftReset := by decide

theorem test_decode_encoder :
    decode 0x01000000000#41 = .ok .rdEncCfg ∧ decode 0x01400000000#41 = .ok .rdEncRes ∧
    decode 0x01800000000#41 = .ok .rdEncSper ∧ decode 0x01C00000000#41 = .ok .rdEncCount ∧
    decode 0x02000000000#41 = .ok .rdEncDir ∧ decode 0x02400000000#41 = .ok .rdEncSpeed ∧
    decode 0x02800000000#41 = .ok .rdEncSspeed ∧ decode 0x02C00000000#41 = .ok .rdEncDbg ∧
    decode 0x11000000001#41 = .ok (.wrEncCfg 1#32) ∧ decode 0x1140000000D#41 = .ok (.wrEncRes 13#32) ∧
    decode 0x11800000064#41 = .ok (.wrEncSper 100#32) := by decide

theorem test_decode_loop_reads :
    decode 0x04000000000#41 = .ok .rdMcTarget ∧ decode 0x04400000000#41 = .ok .rdMcKp ∧
    decode 0x04800000000#41 = .ok .rdMcKi ∧ decode 0x04C00000000#41 = .ok .rdMcKd ∧
    decode 0x05000000000#41 = .ok .rdMcMinDuty ∧ decode 0x05400000000#41 = .ok .rdMcMaxSpeed ∧
    decode 0x05800000000#41 = .ok .rdMcPeriod ∧ decode 0x05C00000000#41 = .ok .rdMcPwmFreq ∧
    decode 0x06000000000#41 = .ok .rdMcPat ∧ decode 0x06400000000#41 = .ok .rdMcSpeed ∧
    decode 0x06800000000#41 = .ok .rdMcPrevErr ∧ decode 0x06C00000000#41 = .ok .rdMcIntegral ∧
    decode 0x07000000000#41 = .ok .rdMcOutput ∧ decode 0x07400000000#41 = .ok .rdMcDuty ∧
    decode 0x07800000000#41 = .ok .rdMcOut ∧ decode 0x07C00000000#41 = .ok .rdMcPwmFreqOut := by decide

theorem test_decode_loop_writes :
    decode 0x140FFFE0000#41 = .ok (.wrMcTarget 0xFFFE0000#32) ∧ decode 0x14400010000#41 = .ok (.wrMcKp 0x10000#32) ∧
    decode 0x148FFFFFFFF#41 = .ok (.wrMcKi 0xFFFFFFFF#32) ∧ decode 0x14C00000001#41 = .ok (.wrMcKd 1#32) ∧
    decode 0x1500000199A#41 = .ok (.wrMcMinDuty 0x199A#32) ∧ decode 0x154000A0000#41 = .ok (.wrMcMaxSpeed 0xA0000#32) ∧
    decode 0x1580000000A#41 = .ok (.wrMcPeriod 10#32) ∧ decode 0x15C00004E20#41 = .ok (.wrMcPwmFreq 20000#32) ∧
    decode 0x16000000201#41 = .ok (.wrMcPat 0x201#32) := by decide

/-- R106, in the order of R102: an unaligned address before an unmapped one, a mapped read-only register before a value check. -/
theorem test_decode_illegal :
    decode 0x00200000000#41 = .error .unaligned ∧ decode 0x0FF00000000#41 = .error .unaligned ∧
    decode 0x03000000000#41 = .error .unmapped ∧ decode 0x13C00000000#41 = .error .unmapped ∧
    decode 0x08000000000#41 = .error .unmapped ∧ decode 0x0FC00000000#41 = .error .unmapped ∧
    decode 0x10000000005#41 = .error .roWrite ∧ decode 0x17C00000000#41 = .error .roWrite ∧
    decode 0x10400000107#41 = .error .illegalCmd ∧ decode 0x10400000007#41 = .error .illegalCmd ∧
    decode 0x10400000101#41 = .error .illegalCmd := by decide

/-- The numbering of the opcode table: one BUS41 word, of 41 bits or of six whole bytes (log 7). -/
theorem test_decodeTableWord :
    decodeTableWord 41 0x1140000000D = some (.wrEncRes 13#32) ∧ decodeTableWord 48 0x1140000000D = some (.wrEncRes 13#32) ∧
    decodeTableWord 48 0x21140000000D = none ∧ decodeTableWord 41 0x00200000000 = none := by decide

/-- The pseudo-instructions of R110: STEPF moves 00, 10, 11, 01; SETSPEED and CMD are writes. -/
theorem test_stimulus :
    stimulusCycles { a := false, b := false, fault := false } [.stepF 2 1, .setSpeed (-131072), .cmd .mcStart] =
      [cycleAt { a := true, b := false, fault := false } none, cycleAt { a := true, b := true, fault := false } none,
       cycleAt { a := true, b := true, fault := false } (some 0x140FFFE0000#41),
       cycleAt { a := true, b := true, fault := false } (some 0x10400000003#41)] := by decide

/-! ### The control registers (95_test_vectors.md 2.1) -/

theorem test_rdId :
    readOf State.reset .id = some 0x51450120#32 ∧
    readOf { State.reset with params := { fClk := 100, nDir := 8 } } .id = some 0x51450180#32 := by decide

theorem test_rdCmd : readOf { bothOn with cap := { err := true, code := 2#8, addr := 0x30#8, ovf := true } } .cmd = some 0#32 := by
  decide

theorem test_rdStatus :
    readOf { bothOn with
      cap := { err := true, code := 2#8, addr := 0#8, ovf := false }
      flags := { pub := true, inv := false, encf := true, mcf := false, pidsat := true, dutysat := false } } .status
      = some 0x2B3#32 := by decide

theorem test_rdErrCause :
    readOf { State.reset with cap := { err := true, code := 0x04#8, addr := 0x44#8, ovf := true } } .errCause
      = some 0x80004404#32 := by decide

/-- WR STATUS, 0x780 clears ENC_FAULT and MC_FAULT of STATUS 0x1B0. -/
theorem test_wrStatus_clears :
    readOf (cycleOf { State.reset with
      cap := { err := true, code := 0x10#8, addr := 0#8, ovf := false }
      flags := { pub := true, inv := false, encf := true, mcf := true, pidsat := false, dutysat := false } }
      (some 0x10800000780#41)) .status = some 0x30#32 := by decide

/-- ENC_RUN, MC_RUN and ERR are not writable. -/
theorem test_wrStatus_keeps_run : readOf (cycleOf bothOn (some 0x108000007FF#41)) .status = some 0x3#32 := by decide

theorem test_cmdNop : cycleOf encoderOn (some 0x10400000000#41) = cycleOf encoderOn none := by decide

theorem test_cmdClrErr :
    causeAfter { State.reset with cap := { err := true, code := 0x04#8, addr := 0x14#8, ovf := false } } 0x10400000005#41
      = some 0#32 := by decide

/-- CLR_ERR and a fault in the same cycle leave the fault's code. -/
theorem test_cmdClrErr_fault :
    (cycleOf (at3 { encoderOn with cap := { err := true, code := 0x04#8, addr := 0x14#8, ovf := true } } false false true)
      (some 0x10400000005#41)).cap = { err := true, code := 0x10#8, addr := 0#8, ovf := false } := by decide

theorem test_cmdSoftReset :
    (let t := cycleOf { encoderOn with flags := { Sticky.none with pub := true } } (some 0x10400000006#41)
    readOf t .status = some 0#32 ∧ readOf t .encRes = some 0#32 ∧ readOf t .encCfg = some 1#32) := by decide

/-- After a reset `a_q` follows the input (95_test_vectors.md 2.2, Snapshot). -/
theorem test_softReset_levels :
    readOf (cycleOf (cycleOf (at3 encoderOn true false false) (some 0x10400000006#41)) none) .encDbg = some 0x1000#32 := by decide

/-! ### Errors (95_test_vectors.md 2.1, 2.2, 2.3, Program E) -/

theorem test_cause_of_words :
    causeAfter State.reset 0x00200000000#41 = some 0x201#32 ∧ causeAfter State.reset 0x03000000000#41 = some 0x3002#32 ∧
    causeAfter State.reset 0x10000000005#41 = some 0x3#32 ∧ causeAfter State.reset 0x10400000107#41 = some 0x405#32 ∧
    causeAfter State.reset 0x10400000007#41 = some 0x405#32 := by decide

theorem test_cause_encStart :
    causeAfter State.reset 0x10400000001#41 = some 0x408#32 ∧
    causeAfter { configured with regs := { configured.regs with sper := 0#32 } } 0x10400000001#41 = some 0x409#32 ∧
    causeAfter (at3 configured false false true) 0x10400000001#41 = some 0x40C#32 ∧
    causeAfter encoderOn 0x10400000001#41 = some 0x406#32 := by decide

theorem test_cause_mcStart :
    causeAfter State.reset 0x10400000003#41 = some 0x408#32 ∧
    causeAfter { encoderOn with regs := { encoderOn.regs with period := 0#32 } } 0x10400000003#41 = some 0x40A#32 ∧
    causeAfter { encoderOn with regs := { encoderOn.regs with maxSpeed := 0#32 } } 0x10400000003#41 = some 0x40B#32 ∧
    causeAfter (at3 configured false false true) 0x10400000003#41 = some 0x40C#32 ∧
    causeAfter bothOn 0x10400000003#41 = some 0x406#32 := by decide

theorem test_cause_busy :
    causeAfter bothOn 0x10400000002#41 = some 0x407#32 ∧ causeAfter bothOn 0x14400000001#41 = some 0x4404#32 ∧
    causeAfter encoderOn 0x11400000005#41 = some 0x1404#32 ∧ causeAfter encoderOn 0x11800000007#41 = some 0x1804#32 := by decide

/-- Four bus errors in a row keep the first and set OVF. -/
theorem test_first_error_kept :
    causeAfter (cycleOf (cycleOf (cycleOf State.reset (some 0x00200000000#41)) (some 0x03000000000#41)) (some 0x10000000005#41))
      0x10400000107#41 = some 0x80000201#32 := by decide

/-- `enc_fault` and WR ID, 1 in one cycle, both units running: the fault is captured first. -/
theorem test_fault_and_bus_error :
    (let t := cycleOf (at3 bothOn false false true) (some 0x10000000001#41)
    t.bus = { rdata := 0#32, err := true } ∧ readOf (at3 t false false false) .errCause = some 0x80000010#32 ∧
      readOf (at3 t false false false) .status = some 0x190#32 ∧ readOf (at3 t false false false) .mcTarget = some 0#32) := by
  decide

/-! ### The encoder -/

/-- The vector of 95_test_vectors.md 1.1: started at the previous pair, an edge to the current pair; ENC_DBG, STATUS, edges. -/
def tableVector (pa pb a b : Bool) : Option Word × Option Word × Word :=
  let s := cycleOf (at3 configured pa pb false) (some 0x10400000001#41)
  let t := cycleOf (at3 s a b false) none
  (readOf t .encDbg, readOf t .status, t.enc.count)

/-- Every table entry an edge can reach. -/
theorem test_direction_vectors :
    tableVector false false false true = (some 0x2121#32, some 1#32, 1#32) ∧
    tableVector false false true false = (some 0x1012#32, some 1#32, 1#32) ∧
    tableVector false false true true = (some 0x3033#32, some 0x41#32, 2#32) ∧
    tableVector false true false false = (some 0x0014#32, some 1#32, 1#32) ∧
    tableVector false true true false = (some 0x1036#32, some 0x41#32, 2#32) ∧
    tableVector false true true true = (some 0x3127#32, some 1#32, 1#32) ∧
    tableVector true false false false = (some 0x0128#32, some 1#32, 1#32) ∧
    tableVector true false false true = (some 0x2039#32, some 0x41#32, 2#32) ∧
    tableVector true false true true = (some 0x301B#32, some 1#32, 1#32) ∧
    tableVector true true false false = (some 0x003C#32, some 0x41#32, 2#32) ∧
    tableVector true true false true = (some 0x201D#32, some 1#32, 1#32) ∧
    tableVector true true true false = (some 0x112E#32, some 1#32, 1#32) := by decide

/-- In single-channel mode an edge of `b` counts nothing and an edge of `a` counts one; the direction stays FORWARD. -/
theorem test_single_channel :
    (let s := singleOn
    (cycleOf (at3 s false true false) none).enc.count = 0#32 ∧ (cycleOf (at3 s true true false) none).enc.count = 1#32 ∧
      (cycleOf (at3 s true true false) none).enc.dirLive = .forward) := by decide

/-- The magnitude of `delta` edges (95_test_vectors.md 2.2). -/
def magnitude (delta fClk sper : Nat) (quad : Bool) (res : Nat) : Word :=
  speedMag { fClk := fClk, nDir := 2 } { Regs.reset with quad := quad, sper := BitVec.ofNat 32 sper, res := BitVec.ofNat 16 res }
    (BitVec.ofNat 32 delta)

theorem test_speed_magnitudes :
    magnitude 26 100 100 false 13 = 0x10000#32 ∧ magnitude 52 100 100 true 13 = 0x10000#32 ∧
    magnitude 13 100 50 true 13 = 0x8000#32 ∧ magnitude 100 100 100 true 1000 = 0x666#32 ∧
    magnitude 3 100 7 true 5 = 0x22492#32 ∧ magnitude 1 100 3 true 1 = 0x85555#32 ∧
    magnitude 1 100 131072 true 1 = 0xD#32 ∧ magnitude 0 100 100 true 13 = 0#32 ∧
    magnitude 12 100 100 true 13 = 0x3B14#32 ∧ magnitude 2 4294967295 1 false 1 = 0x7FFFFFFF#32 := by decide

/-- The signs of 95_test_vectors.md 2.2: mode, direction, last sign. -/
theorem test_published_signs :
    publishedNeg true .forward true = false ∧ publishedNeg true .backward true = true ∧
    publishedNeg true .invalid false = false ∧ publishedNeg true .invalid true = true ∧
    publishedNeg true .stop false = false ∧ publishedNeg false .forward true = false ∧
    u32 (signedSpeed 0x3B14#32 true) = 0xFFFFC4EC#32 ∧ u32 (signedSpeed 0#32 true) = 0#32 := by decide

/-- A running encoder one cycle before its strobe, with 51 edges counted, history 00 to 01 forward. -/
def beforeStrobe : State :=
  { encoderOn with enc := { encoderOn.enc with bQ := true, hist := 0b1101#4, count := 51#32, scnt := 99#32, dirLive := .forward } }

/-- The edge of the strobe cycle is published with it; the snapshot is not taken (Scenario B). -/
theorem test_publication :
    (let t := cycleOf beforeStrobe none
    t.enc.pubCount = 52#32 ∧ t.enc.pubDir = .forward ∧ t.enc.pubSpeed = 0x10000#32 ∧ t.enc.base = 52#32 ∧ t.enc.scnt = 0#32 ∧
      t.enc.snapSpeed = 0#32 ∧ t.flags.pub = true ∧ readOf t .mcSpeed = some 0x10000#32) := by decide

/-- RD ENC_COUNT returns the old count in the cycle of a publication and snapshots the old state. -/
theorem test_rdEncCount :
    (let t := cycleOf beforeStrobe (some 0x01C00000000#41)
    t.bus.rdata = 0#32 ∧ t.enc.snapDir = .stop ∧
      (cycleOf t (some 0x01C00000000#41)).bus.rdata = 52#32 ∧
      readOf (cycleOf t (some 0x01C00000000#41)) .encDir = some 1#32) := by decide

/-- The snapshot's reads: INVALID, magnitude, negative (the INVALID-sign program). -/
theorem test_snapshot_reads :
    (let s : State := { encoderOn with enc := { encoderOn.enc with snapDir := .invalid, snapSpeed := 0x3B14#32, snapNeg := true } }
    readOf s .encDir = some 3#32 ∧ readOf s .encSpeed = some 0x3B14#32 ∧ readOf s .encSspeed = some 0xFFFFC4EC#32) := by decide

theorem test_rdEncDbg :
    readOf { encoderOn with enc := { encoderOn.enc with hist := 0xC#4, dirLive := .invalid, lastNeg := true } } .encDbg
      = some 0x13C#32 := by decide

theorem test_wrEncRes : readOf (cycleOf State.reset (some 0x1140001000D#41)) .encRes = some 0xD#32 := by decide

theorem test_wrEncSper : readOf (cycleOf State.reset (some 0x118FFFFFFFF#41)) .encSper = some 0xFFFFFFFF#32 := by decide

theorem test_wrEncCfg :
    (let t := cycleOf State.reset (some 0x110FFFFFFFE#41)
    readOf t .encCfg = some 0#32 ∧ readOf t .encDir = some 1#32 ∧
      readOf (cycleOf t (some 0x11000000001#41)) .encDir = some 0#32) := by decide

/-- Started at the pair 2: the history is 1010. -/
theorem test_cmdEncStart :
    (let t := cycleOf (at3 configured true false false) (some 0x10400000001#41)
    t.enc.run = true ∧ t.enc.hist = 0b1010#4 ∧ t.enc.scnt = 0#32 ∧ t.enc.aQ = true) := by decide

theorem test_cmdEncStop :
    (let t := cycleOf { encoderOn with
      enc := { encoderOn.enc with pubCount := 0x34#32, snapDir := .forward, snapSpeed := 5#32 }
      flags := { Sticky.none with pub := true } } (some 0x10400000002#41)
    readOf t .encCount = some 0#32 ∧ readOf t .encDir = some 0#32 ∧ readOf t .encSpeed = some 0#32 ∧
      readOf t .status = some 0x20#32) := by decide

/-- A fault freezes the published values and stops the encoder. -/
theorem test_encoder_fault :
    (let t := at3 (cycleOf (at3 { encoderOn with enc := { encoderOn.enc with pubCount := 0x34#32 } } false false true) none)
      false false false
    readOf t .status = some 0x90#32 ∧ readOf t .errCause = some 0x10#32 ∧ readOf t .encCount = some 0x34#32) := by decide

/-! ### The control loop -/

theorem test_wrMcMinDuty : readOf (cycleOf State.reset (some 0x15000020000#41)) .mcMinDuty = some 0x10000#32 := by decide

theorem test_wrMcPat :
    (let t := cycleOf State.reset (some 0x160FFFFFFFF#41)
    readOf t .mcPat = some 0x030303#32 ∧ readOf t .mcOut = some 0x00300000#32) := by decide

/-- Each pattern byte goes to its own field: FWD 01, BWD 02, STOP 03. -/
theorem test_wrMcPat_bytes : readOf (cycleOf State.reset (some 0x16000FF0201#41)) .mcPat = some 0x030201#32 := by decide

theorem test_wrMcPwmFreq :
    (let t := cycleOf State.reset (some 0x15CFFFFFFFF#41)
    readOf t .mcPwmFreq = some 0xFFFFFFFF#32 ∧ readOf t .mcPwmFreqOut = some 0#32) := by decide

theorem test_wrMcGains :
    readOf (cycleOf State.reset (some 0x144FFFFFFFF#41)) .mcKp = some 0xFFFFFFFF#32 ∧
    readOf (cycleOf State.reset (some 0x14800000002#41)) .mcKi = some 2#32 ∧
    readOf (cycleOf State.reset (some 0x14C00000003#41)) .mcKd = some 3#32 := by decide

theorem test_wrMcLimits :
    readOf (cycleOf State.reset (some 0x154000A0000#41)) .mcMaxSpeed = some 0xA0000#32 ∧
    readOf (cycleOf State.reset (some 0x1580000000A#41)) .mcPeriod = some 10#32 := by decide

/-- MC_TARGET may be written while the loop runs. -/
theorem test_wrMcTarget : readOf (cycleOf bothOn (some 0x14000010000#41)) .mcTarget = some 0x10000#32 := by decide

/-- Program C, cycles 10 to 13: start, tick, the pattern at once, the duty two cycles after the tick. -/
theorem test_mcStart_and_first_tick :
    (let s := cycleOf configured (some 0x10400000003#41)
    readOf s .mcOut = some 0x00140000#32 ∧ readOf s .status = some 3#32 ∧ readOf s .mcPwmFreqOut = some 0x4E20#32 ∧
      readOf (cycleOf s none) .mcOut = some 0x00160000#32 ∧
      readOf (cycleOf (cycleOf s none) none) .mcOut = some 0x00148CCD#32) := by decide

theorem test_cmdMcStop :
    (let t := cycleOf { bothOn with mc := { bothOn.mc with duty := 5#32, pwmDuty := 7#17, pwmFreqOut := 20000#32 } }
      (some 0x10400000004#41)
    readOf t .mcOut = some 0#32 ∧ readOf t .mcTarget = some 0#32 ∧ readOf t .mcDuty = some 0#32 ∧
      readOf t .mcPwmFreqOut = some 0x4E20#32 ∧ readOf t .status = some 1#32) := by decide

/-- The loop's results are read from their own fields. -/
theorem test_loop_results :
    (let s : State := { bothOn with mc := { bothOn.mc with prevErr := 1#32, integ := 2#32, out := 3#32, duty := 4#32 } }
    readOf s .mcPrevErr = some 1#32 ∧ readOf s .mcIntegral = some 2#32 ∧ readOf s .mcOutput = some 3#32 ∧
      readOf s .mcDuty = some 4#32) := by decide

/-- A tick of 95_test_vectors.md 2.4: the defaults of that table with other registers, measured speed, integral, previous error
and pattern. -/
def tickOf (r : Regs → Regs) (speed : Word) (neg : Bool) (integ prev : Word) (d : DirSel) : State :=
  idleCycle { bothOn with
    regs := r { Regs.reset with period := 10#32, maxSpeed := 0x10000#32, res := 13#16, sper := 100#32 }
    enc := { bothOn.enc with pubSpeed := speed, pubNeg := neg }
    mc := { bothOn.mc with integ := integ, prevErr := prev, dirsel := d } }

/-- The columns E, I, O, DU, pend, dirsel, PID_SAT and DUTY_SAT of that table. -/
def tickRow (s : State) : List Word × Duty × DirSel × Bool × Bool :=
  ([s.mc.prevErr, s.mc.integ, s.mc.out, s.mc.duty], s.mc.pendDuty, s.mc.dirsel, s.flags.pidsat, s.flags.dutysat)

/-- Scenario C's limits. -/
def limits (target kp : Word) (r : Regs) : Regs := { r with target := target, kp := kp, minDuty := 0x199A#17, maxSpeed := 0xA0000#32 }

theorem test_tick_C :
    tickRow (tickOf (limits 0x50000#32 0x10000#32) 0#32 false 0#32 0#32 .fwd) =
      ([0x50000#32, 0x8000#32, 0x50000#32, 0x8CCD#32], 0x8CCD#17, .fwd, false, false) := by decide

theorem test_tick_KI :
    tickRow (tickOf (fun r => { r with target := 0x10000#32, ki := 0x10000#32 }) 0#32 false 0x199A#32 0x10000#32 .fwd) =
      ([0x10000#32, 0x3334#32, 0x3334#32, 0x3334#32], 0x3334#17, .fwd, false, false) ∧
    tickRow (tickOf (fun r => { r with target := 0x10000#32, ki := 1#32 }) 0#32 false 0#32 0#32 .fwd) =
      ([0x10000#32, 0x199A#32, 0#32, 0#32], 0#17, .fwd, false, false) := by decide

theorem test_tick_KD :
    tickRow (tickOf (fun r => { r with target := 0x10000#32, kd := 0x10000#32, maxSpeed := 0xA0000#32 }) 0#32 false 0#32 0#32 .fwd) =
      ([0x10000#32, 0x199A#32, 0xA0000#32, 0x10000#32], 0x10000#17, .fwd, false, false) ∧
    tickRow (tickOf (fun r => { r with target := 0x10000#32, kd := 0x10000#32, maxSpeed := 0xA0000#32 })
      0#32 false 0#32 0x10000#32 .fwd) =
      ([0x10000#32, 0x199A#32, 0#32, 0#32], 0#17, .fwd, false, false) := by decide

theorem test_tick_KPneg :
    tickRow (tickOf (fun r => { r with target := 0x10000#32, kp := 0xFFFF0000#32 }) 0#32 false 0#32 0#32 .fwd) =
      ([0x10000#32, 0x199A#32, 0xFFFF0000#32, 0xFFFF0000#32], 0x10000#17, .fwd, false, false) := by decide

theorem test_tick_saturations :
    tickRow (tickOf (fun r => { r with target := 0xA0000#32, kp := 0x20000#32, maxSpeed := 0xA0000#32 }) 0#32 false 0#32 0#32 .fwd) =
      ([0xA0000#32, 0x10000#32, 0x140000#32, 0x20000#32], 0x10000#17, .fwd, false, true) ∧
    tickRow (tickOf (fun r => { r with target := 0x7FFFFFFF#32, kp := 0x7FFFFFFF#32 }) 0#32 false 0#32 0#32 .fwd) =
      ([0x7FFFFFFF#32, 0xCCCCCCD#32, 0x7FFFFFFF#32, 0x7FFFFFFF#32], 0x10000#17, .fwd, true, true) ∧
    tickRow (tickOf (fun r => { r with target := 0x7FFFFFFF#32 }) 0x7FFFFFFF#32 true 0#32 0#32 .fwd) =
      ([0x7FFFFFFF#32, 0xCCCCCCD#32, 0#32, 0#32], 0#17, .fwd, true, false) ∧
    tickRow (tickOf (fun r => { r with target := 0x7FFFFFFF#32 }) 0#32 false 0x7FFFFFF5#32 0#32 .fwd) =
      ([0x7FFFFFFF#32, 0x7FFFFFFF#32, 0#32, 0#32], 0#17, .fwd, true, false) := by decide

/-- The rows rev, minoff (a switch) and zero, agree, zcur (none). -/
theorem test_tick_switches :
    tickRow (tickOf (limits 0xFFFE0000#32 0x10000#32) 0x10000#32 false 0#32 0#32 .fwd) =
      ([0xFFFD0000#32, 0xFFFFB333#32, 0xFFFD0000#32, 0xFFFFD47B#32], 0x2B85#17, .bwd, false, false) ∧
    tickRow (tickOf (limits 0xFFFF0000#32 0#32) 0x10000#32 true 0#32 0#32 .bwd) =
      ([0#32, 0#32, 0#32, 0x199A#32], 0x199A#17, .fwd, false, false) := by decide

theorem test_tick_no_switch :
    tickRow (tickOf (fun r => { r with target := 0xFFFF0000#32, kp := 0x10000#32, maxSpeed := 0xA0000#32 })
      0x10000#32 true 0#32 0#32 .fwd) = ([0#32, 0#32, 0#32, 0#32], 0#17, .fwd, false, false) ∧
    tickRow (tickOf (fun r => { r with target := 0xFFFE0000#32, kp := 0x10000#32, maxSpeed := 0xA0000#32 })
      0x10000#32 true 0#32 0#32 .fwd) =
      ([0xFFFF0000#32, 0xFFFFE666#32, 0xFFFF0000#32, 0xFFFFE666#32], 0x199A#17, .fwd, false, false) ∧
    tickRow (tickOf (fun r => { r with target := 0xFFFE0000#32, kp := 0x10000#32, maxSpeed := 0xA0000#32 })
      0#32 false 0#32 0#32 .fwd) =
      ([0xFFFE0000#32, 0xFFFFCCCD#32, 0xFFFE0000#32, 0xFFFFCCCD#32], 0x3333#17, .fwd, false, false) := by decide

/-- Ties round away from zero: `RND(50, 100) = 1`, `RND(-50, 100) = -1`. -/
theorem test_tick_ties :
    (tickOf (fun r => { r with target := 1#32, period := 50#32 }) 0#32 false 0#32 0#32 .fwd).mc.integ = 1#32 ∧
    (tickOf (fun r => { r with target := 0xFFFFFFFF#32, period := 50#32 }) 0#32 false 0#32 0#32 .fwd).mc.integ = 0xFFFFFFFF#32 := by
  decide

/-- The bytes of a register, least significant first (R81). -/
theorem test_byteLane : byteLane 0x51450120#32 0 = 0x20#8 ∧ byteLane 0x51450120#32 3 = 0x51#8 := by decide

/-! ### Witnesses: for each statement with hypotheses, a concrete state and operands that meet them, clause by clause -/

/-- The word of a cycle, presented to `s` in its next cycle. -/
def wordCycle (s : State) (w : BusWord) : State := with1 s (some w)

/-- A state whose one cycle carries `w` carries it next. -/
theorem witness_nextWord : nextWord (wordCycle configured 0x10400000005#41) 0x10400000005#41 := ⟨_, _, rfl, rfl, rfl⟩

/-- A cycle without reset and without SOFT_RESET does not reset. -/
theorem witness_not_nextResets : ¬ nextResets (wordCycle encoderOn 0x01C00000000#41) := by
  rintro (⟨c, rest, h, hr⟩ | ⟨c, rest, h, -, hq⟩)
  · cases h; cases hr
  · cases h; revert hq; decide

/-- Both ways to reset. -/
theorem witness_nextResets :
    nextResets { configured with stim := [{ rst := true, pins := configured.pins, req := some 0x10400000001#41 }] } ∧
      nextResets (wordCycle configured 0x10400000006#41) :=
  ⟨.inl ⟨_, _, rfl, rfl⟩, .inr ⟨_, _, rfl, rfl, rfl⟩⟩

theorem witness_DecodeOfEncode : (Instr.wrEncSper 0xFFFFFFFF#32).wf = true ∧ Instr.cmdSoftReset.wf = true := by decide

/-- A read with don't-care data, and a write. -/
theorem witness_DecodedWordIsItsEncoding :
    decode 0x008DEADBEEF#41 = .ok .rdStatus ∧ decode 0x144FFFFFFFF#41 = .ok (.wrMcKp 0xFFFFFFFF#32) := by decide

/-- The clauses of IllegalEncodings at the ends of their ranges; where they meet, the neighbours are instructions. -/
theorem witness_IllegalEncodings :
    decode 0x0FF00000000#41 = .error .unaligned ∧ decode 0x03000000000#41 = .error .unmapped ∧
    decode 0x03C00000000#41 = .error .unmapped ∧ decode 0x08000000000#41 = .error .unmapped ∧
    decode 0x0FC00000000#41 = .error .unmapped ∧ decode 0x10C00000000#41 = .error .roWrite ∧
    decode 0x17C00000000#41 = .error .roWrite ∧ decode 0x10400000100#41 = .error .illegalCmd ∧
    decode 0x104000000FF#41 = .error .illegalCmd ∧ decode 0x10400000007#41 = .error .illegalCmd ∧
    decode 0x02C00000000#41 = .ok .rdEncDbg ∧ decode 0x04000000000#41 = .ok .rdMcTarget ∧
    decode 0x07C00000000#41 = .ok .rdMcPwmFreqOut ∧ decode 0x10400000006#41 = .ok .cmdSoftReset := by decide

theorem witness_StepRunsDecodedInstruction :
    (wordCycle encoderOn 0x01C00000000#41).stim = [cycleAt encoderOn.pins (some 0x01C00000000#41)] ∧
      (cycleAt encoderOn.pins (some 0x01C00000000#41)).rst = false ∧ decode 0x01C00000000#41 = .ok .rdEncCount := by decide

theorem witness_PresentedWordRunsNext : decodeTableWord 48 0x1140000000D = some (.wrEncRes 13#32) := by decide

/-- Each line of CHECK, and words that pass it, at the ends of the ranges. -/
theorem witness_TransactionErrorsFollowCheck :
    hostCheck State.reset 0x00100000000#41 = some .unaligned ∧ hostCheck State.reset 0x03000000000#41 = some .unmapped ∧
    hostCheck State.reset 0x03C00000000#41 = some .unmapped ∧ hostCheck State.reset 0x08000000000#41 = some .unmapped ∧
    hostCheck State.reset 0x10000000000#41 = some .roWrite ∧ hostCheck encoderOn 0x11000000000#41 = some .busyConfig ∧
    hostCheck bothOn 0x16000000000#41 = some .busyConfig ∧ hostCheck State.reset 0x10400000007#41 = some .illegalCmd ∧
    hostCheck encoderOn 0x10400000001#41 = some .alreadyRunning ∧ hostCheck State.reset 0x10400000001#41 = some .cfgResZero ∧
    hostCheck bothOn 0x10400000002#41 = some .encOwned ∧ hostCheck bothOn 0x10400000003#41 = some .alreadyRunning ∧
    hostCheck State.reset 0x10400000003#41 = some .cfgResZero ∧
    hostCheck configured 0x10400000003#41 = none ∧ hostCheck bothOn 0x14000000000#41 = none ∧
    hostCheck bothOn 0x07C00000000#41 = none ∧ hostCheck bothOn 0x10400000006#41 = none := by decide

/-- The checks of the starts in their order: SPER, the period 1, the maximum speed, the fault. -/
theorem witness_TransactionErrorsFollowCheck_starts :
    hostCheck { configured with regs := { configured.regs with sper := 0#32 } } 0x10400000001#41 = some .cfgSperZero ∧
    hostCheck (at3 configured false false true) 0x10400000001#41 = some .hwFaultAtStart ∧
    hostCheck { configured with regs := { configured.regs with sper := 0#32 } } 0x10400000003#41 = some .cfgSperZero ∧
    hostCheck { configured with regs := { configured.regs with period := 1#32 } } 0x10400000003#41 = some .cfgMcperSmall ∧
    hostCheck { configured with regs := { configured.regs with period := 2#32, maxSpeed := 0#32 } } 0x10400000003#41
      = some .cfgMaxspdZero ∧
    hostCheck (at3 configured false false true) 0x10400000003#41 = some .hwFaultAtStart := by decide

/-- With the fault and without it. -/
theorem witness_CycleWithoutTransaction :
    (with1 bothOn none).stim = [cycleAt bothOn.pins none] ∧ (cycleAt bothOn.pins none).rst = false ∧
      (cycleAt bothOn.pins none).req = none ∧ ¬ (bothOn.enc.run = true ∧ bothOn.pins.fault = true) ∧
      ((at3 bothOn false false true).enc.run = true ∧ (at3 bothOn false false true).pins.fault = true) := by decide

theorem witness_ResetCycle : ∃ c, { bothOn with stim := [{ rst := true, pins := bothOn.pins, req := none }] }.stim = [c] ∧ c.rst = true :=
  ⟨_, rfl, rfl⟩

theorem witness_RunEndsOnlyWithItsStimulus : State.reset.stim = [] ∧ (with1 State.reset none).stim ≠ [] := by decide

theorem witness_StepConsumesOneCycle :
    (with1 bothOn none).stim = [cycleAt bothOn.pins none] ∧ ∃ t, step (with1 bothOn none) = .next t := ⟨rfl, _, rfl⟩

/-- Stopped and running, for the writes of both units (WriteEncoderConfiguration, WriteGains, WriteLoopLimits, WritePatterns). -/
theorem witness_writes :
    configured.enc.run = false ∧ encoderOn.enc.run = true ∧ configured.mc.run = false ∧ bothOn.mc.run = true := by decide

theorem witness_StopTwiceIsStopOnce :
    encoderOn.mc.run = false ∧ (∃ t, exec .cmdEncStop encoderOn = .next t) ∧ ∃ t, exec .cmdMcStop bothOn = .next t :=
  ⟨rfl, ⟨_, rfl⟩, ⟨_, rfl⟩⟩

/-- The smallest configuration the starts accept: RES 1, SPER 1, P 2, MAXS 1. -/
def smallest : State := { configured with regs := { configured.regs with res := 1#16, sper := 1#32, period := 2#32, maxSpeed := 1#32 } }

/-- Both units stopped, with other registers. -/
def stoppedWith (r : Regs → Regs) : State := { smallest with regs := r smallest.regs }

theorem witness_EncoderStart :
    encoderOn.enc.run = true ∧ (State.reset.enc.run = false ∧ State.reset.regs.res = 0#16) ∧
    (let s := stoppedWith (fun r => { r with sper := 0#32 })
    s.enc.run = false ∧ s.regs.res ≠ 0#16 ∧ s.regs.sper = 0#32) ∧
    (let s := at3 smallest false false true
    s.enc.run = false ∧ s.regs.res ≠ 0#16 ∧ s.regs.sper ≠ 0#32 ∧ s.pins.fault = true) ∧
    (smallest.enc.run = false ∧ smallest.regs.res ≠ 0#16 ∧ smallest.regs.sper ≠ 0#32 ∧ smallest.pins.fault = false) := by decide

theorem witness_EncoderStop : bothOn.mc.run = true ∧ encoderOn.mc.run = false := by decide

theorem witness_LoopStart_refused :
    bothOn.mc.run = true ∧ (State.reset.mc.run = false ∧ State.reset.enc.run = false ∧ State.reset.regs.res = 0#16) ∧
    (let s := stoppedWith (fun r => { r with sper := 0#32 })
    s.mc.run = false ∧ s.enc.run = false ∧ s.regs.res ≠ 0#16 ∧ s.regs.sper = 0#32) ∧
    (let s := stoppedWith (fun r => { r with period := 1#32 })
    s.mc.run = false ∧ s.regs.res ≠ 0#16 ∧ s.regs.sper ≠ 0#32 ∧ s.regs.period.toNat < 2) ∧
    (let s := stoppedWith (fun r => { r with maxSpeed := 0#32 })
    s.mc.run = false ∧ s.regs.res ≠ 0#16 ∧ s.regs.sper ≠ 0#32 ∧ 2 ≤ s.regs.period.toNat ∧ s.regs.maxSpeed = 0#32) ∧
    (let s := at3 encoderOn false false true
    s.mc.run = false ∧ s.enc.run = true ∧ 2 ≤ s.regs.period.toNat ∧ s.regs.maxSpeed ≠ 0#32 ∧ s.pins.fault = true) := by decide

/-- A stopped encoder, started with the loop, and a running one. -/
theorem witness_LoopStart :
    (smallest.mc.run = false ∧ smallest.enc.run = false ∧ smallest.regs.res ≠ 0#16 ∧ smallest.regs.sper ≠ 0#32 ∧ 2 ≤ smallest.regs.period.toNat ∧
      smallest.regs.maxSpeed ≠ 0#32 ∧ smallest.pins.fault = false) ∧
    (encoderOn.mc.run = false ∧ encoderOn.enc.run = true ∧ 2 ≤ encoderOn.regs.period.toNat ∧ encoderOn.regs.maxSpeed ≠ 0#32 ∧
      encoderOn.pins.fault = false) := by decide

theorem witness_StoppedUnitsHold : configured.enc.run = false ∧ configured.mc.run = false := by decide

/-- No edge, one edge and two edges in a cycle, and the four directions an edge can latch or keep. -/
theorem witness_QuadratureEdges :
    encoderOn.enc.run = true ∧ encoderOn.regs.quad = true ∧ edges encoderOn = 0 ∧ edges (at3 encoderOn true false false) = 1 ∧
      edges (at3 encoderOn true true false) = 2 ∧
      (idleCycle (at3 encoderOn true false false)).enc.dirLive = .forward ∧
      (idleCycle (at3 encoderOn false true false)).enc.dirLive = .backward ∧
      (idleCycle (at3 encoderOn true true false)).enc.dirLive = .invalid := by decide

theorem witness_SingleChannelEdges : singleOn.enc.run = true ∧ singleOn.regs.quad = false := by decide

/-- The last cycle before a strobe cycle. -/
theorem witness_NoPublicationBetweenStrobes :
    (let s : State := { encoderOn with enc := { encoderOn.enc with scnt := 98#32 } }
    s.enc.run = true ∧ s.enc.scnt.toNat + 1 < s.regs.sper.toNat) := by decide

/-- A strobe cycle, and the strobe of every cycle at SPER 1. -/
theorem witness_PublicationAtStrobe :
    (beforeStrobe.enc.run = true ∧ beforeStrobe.enc.scnt.toNat + 1 = beforeStrobe.regs.sper.toNat ∧ beforeStrobe.regs.res ≠ 0#16) ∧
    (let s : State := { encoderOn with regs := smallest.regs }
    s.enc.run = true ∧ s.enc.scnt.toNat + 1 = s.regs.sper.toNat ∧ s.regs.res ≠ 0#16) := by decide

/-- The smallest divisor, and a tie: `RND(1, 2) = 1`. -/
theorem witness_RoundingIsNearest : 0 < 1 ∧ (2 * (rnd 1 2 * (2 : Nat) - 1)).natAbs = 2 := by decide

/-- Ticks at the smallest period, with both ways to be without a fault. -/
theorem witness_ControlTick :
    (let s : State := { bothOn with regs := smallest.regs }
    s.mc.run = true ∧ s.mc.mcnt = 0#32 ∧ 2 ≤ s.regs.period.toNat ∧ noFault s) ∧
    (let s : State := { (at3 bothOn false false true) with enc := { bothOn.enc with run := false } }
    s.mc.run = true ∧ s.mc.mcnt = 0#32 ∧ 2 ≤ s.regs.period.toNat ∧ noFault s) :=
  ⟨⟨rfl, rfl, by decide, .inr rfl⟩, ⟨rfl, rfl, by decide, .inl rfl⟩⟩

/-- The loop runs, its period counter at `n`. -/
def loopAt (n : Word) : State := { bothOn with mc := { bothOn.mc with mcnt := n } }

/-- The first and the last cycle between two ticks. -/
theorem witness_CycleWithoutTick :
    ((loopAt 1#32).mc.run = true ∧ (loopAt 1#32).mc.mcnt ≠ 0#32 ∧ (loopAt 1#32).mc.mcnt.toNat < (loopAt 1#32).regs.period.toNat ∧
      noFault (loopAt 1#32)) ∧
    ((loopAt 9#32).mc.run = true ∧ (loopAt 9#32).mc.mcnt ≠ 0#32 ∧ (loopAt 9#32).mc.mcnt.toNat + 1 = (loopAt 9#32).regs.period.toNat ∧
      noFault (loopAt 9#32)) :=
  ⟨⟨rfl, by decide, by decide, .inr rfl⟩, ⟨rfl, by decide, by decide, .inr rfl⟩⟩

theorem witness_EncoderFaultStopsUnits :
    (at3 bothOn false false true).enc.run = true ∧ (at3 bothOn false false true).pins.fault = true ∧ bothOn.mc.run = true ∧
      (at3 encoderOn false false true).enc.run = true ∧ encoderOn.mc.run = false := by decide

/-- A state with both units running meets the invariant, and steps. -/
theorem witness_StepKeepsInvariant :
    (with1 bothOn (some 0x10400000004#41)).Inv ∧ ∃ t, step (with1 bothOn (some 0x10400000004#41)) = .next t :=
  ⟨⟨by decide, by decide, by decide, by decide⟩, _, rfl⟩

theorem witness_ResetMeetsInvariant :
    ({ fClk := 1, nDir := 8 } : Params).wf ∧ ({ fClk := 4294967295, nDir := 1 } : Params).wf := by decide

theorem witness_GrayStepsAreNeverInvalid :
    (at3 encoderOn true false false).EncInv ∧ encoderOn.enc.run = true ∧ encoderOn.regs.quad = true ∧
      0 < edges (at3 encoderOn true false false) ∧ 0 < edges (at3 encoderOn true true false) := by decide

/-- A recorded error, a step that does not clear it, with OVF and without. -/
theorem witness_FirstErrorIsKept :
    (let s := wordCycle { encoderOn with cap := { err := true, code := 2#8, addr := 0x30#8, ovf := true } } 0x01C00000000#41
    s.cap.err = true ∧ s.cap.ovf = true ∧ (∃ t, step s = .next t) ∧ ¬ nextResets s ∧ ¬ nextWord s 0x10400000005#41) := by
  refine ⟨rfl, rfl, ⟨_, rfl⟩, ?_, ?_⟩
  · rintro (⟨c, rest, h, hr⟩ | ⟨c, rest, h, -, hq⟩)
    · cases h; cases hr
    · cases h; revert hq; decide
  · rintro ⟨c, rest, h, -, hq⟩
    cases h; revert hq; decide

theorem witness_AsynchronousErrorFirst :
    (let s := at3 bothOn false false true
    (wordCycle s 0x10000000001#41).stim = [cycleAt s.pins (some 0x10000000001#41)] ∧ s.cap = ErrCapture.none ∧ s.enc.run = true ∧
      (cycleAt s.pins (some 0x10000000001#41)).pins.fault = true ∧
      hostCheck { s with stim := [] } 0x10000000001#41 = some .roWrite) := by decide

/-- Steps exist, and one that changes the snapshot, the published state and the pattern. -/
theorem witness_changes :
    (∃ t, step (with1 beforeStrobe none) = .next t ∧ t.enc.pubCount ≠ beforeStrobe.enc.pubCount) ∧
    (∃ t, step (wordCycle { beforeStrobe with enc := { beforeStrobe.enc with pubSpeed := 5#32 } } 0x01C00000000#41) = .next t ∧
      t.enc.snapSpeed = 5#32) ∧
    (∃ t, step (with1 { bothOn with enc := { bothOn.enc with pubSpeed := 0x70000#32 }, regs := { bothOn.regs with target := 0#32 } }
      none) = .next t ∧ t.mc.dirsel ≠ bothOn.mc.dirsel) :=
  ⟨⟨_, rfl, by decide⟩, ⟨_, rfl, by decide⟩, ⟨_, rfl, by decide⟩⟩

/-- Running units and a step that does not reset. -/
theorem witness_ConfigurationFrozenWhileRunning :
    (let s := wordCycle bothOn 0x14400000001#41
    (∃ t, step s = .next t) ∧ ¬ nextResets s ∧ s.enc.run = true ∧ s.mc.run = true) := by
  refine ⟨⟨_, rfl⟩, ?_, rfl, rfl⟩
  rintro (⟨c, rest, h, hr⟩ | ⟨c, rest, h, -, hq⟩)
  · cases h; cases hr
  · cases h; revert hq; decide

theorem witness_ErrorRecordHasNoInfluence : ∃ t, step (wordCycle bothOn 0x00C00000000#41) = .next t := ⟨_, rfl⟩

theorem witness_SingleChannelIgnoresB : singleOn.regs.quad = false ∧ singleOn.enc.run = true := by decide

theorem witness_PatternOneCycleBeforeDuty :
    (let c := cycleAt bothOn.pins none
    ({ bothOn with stim := [c, c] } : State).stim = [c, c] ∧ c.rst = false ∧ c.req = none ∧ c.pins.fault = false ∧
      bothOn.mc.run = true ∧ bothOn.mc.mcnt = 0#32 ∧ bothOn.mc.pendV = false ∧ 2 ≤ bothOn.regs.period.toNat) := by decide

theorem witness_ReadSnapshot : encoderOn.EncInv ∧ { encoderOn.enc with snapSpeed := 0x7FFFFFFF#32 }.snapSpeed.toNat < 2147483648 := by decide

theorem witness_TicksComeOnTime :
    (let c := cycleAt bothOn.pins none
    let s : State := { loopAt 8#32 with stim := [c, c] }
    s.mc.run = true ∧ s.mc.mcnt ≠ 0#32 ∧ s.mc.mcnt.toNat + 2 = s.regs.period.toNat ∧ 2 ≤ s.stim.length ∧
      ∀ c ∈ s.stim, c.rst = false ∧ c.req = none ∧ c.pins.fault = false) := by decide

theorem witness_PublicationComesOnTime :
    (let c := cycleAt encoderOn.pins none
    let s : State := { encoderOn with enc := { encoderOn.enc with scnt := 98#32 }, stim := [c, c] }
    s.enc.run = true ∧ s.enc.scnt.toNat + 2 = s.regs.sper.toNat ∧ 0 < 2 ∧ 2 ≤ s.stim.length ∧
      ∀ c ∈ s.stim, c.rst = false ∧ c.req = none ∧ c.pins.fault = false) := by decide

end Sys2Proof.Tests
end

section
/-! Proofs of the statements on the scope: a step and its stimulus (R13, R15, R151), and the rounding (R11). -/

namespace Sys2Proof.Machine

open Sys2Proof.Claims

/-! ### A step by the inputs of its cycle (R88) -/

section StepEquations

variable {s : State} {c : CycleIn} {rest : List CycleIn}

theorem step_of_no_stim (hs : s.stim = []) : step s = .fault .stimulusEnded := by
  simp [step, takeInputs, hs]

theorem step_of_rst (hs : s.stim = c :: rest) (hr : c.rst = true) :
    step s = .next (resetBlock (s.withInputs c.pins rest)) := by
  simp [step, takeInputs, hs, hr]

theorem step_of_no_req (hs : s.stim = c :: rest) (hr : c.rst = false) (hq : c.req = none) :
    step s = .next (idleCycle (s.withInputs c.pins rest)) := by
  simp [step, takeInputs, hs, hr, hq]

theorem step_of_decode_error {w : BusWord} {e : ErrCode} (hs : s.stim = c :: rest) (hr : c.rst = false)
    (hq : c.req = some w) (hd : decode w = .error e) :
    step s = .next (busErrorCycle e (busAddr w) (s.withInputs c.pins rest)) := by
  simp [step, takeInputs, hs, hr, hq, hd]

theorem step_of_decode_ok {w : BusWord} {i : Instr} (hs : s.stim = c :: rest) (hr : c.rst = false)
    (hq : c.req = some w) (hd : decode w = .ok i) :
    step s = exec i (s.withInputs c.pins rest) := by
  simp [step, takeInputs, hs, hr, hq, hd]

end StepEquations

/-! ### Completion -/

theorem step_completes {s : State} {c : CycleIn} {rest : List CycleIn} (hs : s.stim = c :: rest) :
    ∃ t, step s = .next t := by
  cases hr : c.rst with
  | true => exact ⟨_, step_of_rst hs hr⟩
  | false =>
    cases hq : c.req with
    | none => exact ⟨_, step_of_no_req hs hr hq⟩
    | some w =>
      cases hd : decode w with
      | error e => exact ⟨_, step_of_decode_error hs hr hq hd⟩
      | ok i =>
        rw [step_of_decode_ok hs hr hq hd]
        exact exec_completes i _

/-- Settles O10: the step's case distinction on its stimulus, each case of a given cycle with its next state. -/
theorem runEndsOnlyWithItsStimulus : Obligations.RunEndsOnlyWithItsStimulus := by
  intro s
  refine ⟨step_of_no_stim, fun h => ?_⟩
  obtain ⟨c, rest, hs⟩ := List.exists_cons_of_ne_nil h
  exact step_completes hs

/-! ### What the kinds of step keep of the inputs and the parameters -/

@[simp] theorem resetBlock_params (s : State) : (resetBlock s).params = s.params := rfl
@[simp] theorem resetBlock_pins (s : State) : (resetBlock s).pins = s.pins := rfl
@[simp] theorem resetBlock_stim (s : State) : (resetBlock s).stim = s.stim := rfl

@[simp] theorem busErrorCycle_params (code : ErrCode) (a : Addr) (s : State) :
    (busErrorCycle code a s).params = s.params := by simp [busErrorCycle_eq]
@[simp] theorem busErrorCycle_pins (code : ErrCode) (a : Addr) (s : State) :
    (busErrorCycle code a s).pins = s.pins := by simp [busErrorCycle_eq]
@[simp] theorem busErrorCycle_stim (code : ErrCode) (a : Addr) (s : State) :
    (busErrorCycle code a s).stim = s.stim := by simp [busErrorCycle_eq]
@[simp] theorem busErrorCycle_enc (code : ErrCode) (a : Addr) (s : State) :
    (busErrorCycle code a s).enc = (ownPhases s).n.enc := by simp [busErrorCycle_eq]

/-- The previous levels of the next cycle after a performed instruction: those of this cycle (R151). -/
theorem performed_levels (s : State) (i : Instr) :
    (performed s i).enc.aQ = s.pins.a ∧ (performed s i).enc.bQ = s.pins.b := by
  obtain ⟨ha, hb⟩ := effect_levels s i (ownPhases s).n
  obtain ⟨hpa, hpb⟩ := ownPhases_levels s
  exact ⟨ha.trans hpa, hb.trans hpb⟩

theorem step_inputs {s t : State} {c : CycleIn} {rest : List CycleIn} (hs : s.stim = c :: rest)
    (h : step s = .next t) : t.stim = rest ∧ t.pins = c.pins ∧ t.params = s.params := by
  obtain ⟨c', rest', hs', hform⟩ := step_form h
  obtain ⟨rfl, rfl⟩ := List.cons.inj (hs.symm.trans hs')
  obtain ⟨-, rfl⟩ | ⟨-, -, rfl⟩ | ⟨-, w, code, -, rfl, -⟩ | ⟨-, w, i, -, -, -, -, rfl⟩ := hform <;> simp

/-- The word of a step that is SOFT_RESET is the one `nextResets` names (R103). -/
theorem nextResets_of_softReset {s : State} {c : CycleIn} {rest : List CycleIn} {w : BusWord}
    (hs : s.stim = c :: rest) (hr : c.rst = false) (hq : c.req = some w) (hd : decode w = .ok .cmdSoftReset) :
    nextResets s := by
  have hw : w = 0x10400000006#41 := command_word hd rfl
  exact Or.inr ⟨c, rest, hs, hr, hw ▸ hq⟩

theorem step_levels {s t : State} {c : CycleIn} {rest : List CycleIn} (hs : s.stim = c :: rest)
    (h : step s = .next t) : nextResets s ∨ (t.enc.aQ = c.pins.a ∧ t.enc.bQ = c.pins.b) := by
  obtain ⟨c', rest', hs', hform⟩ := step_form h
  obtain ⟨rfl, rfl⟩ := List.cons.inj (hs.symm.trans hs')
  obtain ⟨hr | ⟨hr, w, hq, hd⟩, -⟩ | ⟨-, -, rfl⟩ | ⟨-, w, code, -, rfl, -⟩ | ⟨-, w, i, -, -, -, -, rfl⟩ := hform
  · exact .inl (.inl ⟨c, rest, hs, hr⟩)
  · exact .inl (nextResets_of_softReset hs hr hq hd)
  · exact .inr (by simpa using ownPhases_levels (s.withInputs c.pins rest))
  · exact .inr (by simpa using ownPhases_levels (s.withInputs c.pins rest))
  · exact .inr (performed_levels (s.withInputs c.pins rest) i)

/-- Settles O12, over the forms a step can have: all of them keep what `takeInputs` left, and all but the resets sample the
levels. -/
theorem stepConsumesOneCycle : Obligations.StepConsumesOneCycle := by
  intro s t c rest hs h
  obtain ⟨hstim, hpins, hparams⟩ := step_inputs hs h
  exact ⟨hstim, hpins, hparams, step_levels hs h⟩

/-! ### Rounding (R11) -/

/-- The multiple of `d` that RND gives for a natural number lies in the half-open interval of width `d` about it: the upper
end, the tie, is its own, the lower one is not. -/
theorem rnd_natCast_bounds (n d : Nat) (hd : 0 < d) :
    2 * (rnd (n : Int) d * d) ≤ 2 * n + d ∧ 2 * (n : Int) < 2 * (rnd (n : Int) d * d) + d := by
  have hle : (2 * n + d) / (2 * d) * (2 * d) ≤ 2 * n + d := Nat.div_mul_le_self _ _
  have hlt : 2 * n + d < (2 * n + d) / (2 * d) * (2 * d) + 2 * d := Nat.lt_div_mul_add (by omega)
  rw [rnd_natCast n d hd]
  generalize (2 * n + d) / (2 * d) = q at hle hlt
  have hq : q * (2 * d) = 2 * (q * d) := Nat.mul_left_comm q 2 d
  rw [← Nat.cast_mul]
  omega

theorem rnd_natCast_nearest (n d : Nat) (hd : 0 < d) :
    (2 * (rnd (n : Int) d * d - n)).natAbs ≤ d ∧
      ((2 * (rnd (n : Int) d * d - n)).natAbs = d → n < (rnd (n : Int) d * d).natAbs) := by
  have hbounds := rnd_natCast_bounds n d hd
  omega

/-- As RND is odd, the distance and the magnitudes for `-n` are those for `n`. -/
theorem rnd_nearest (n : Int) (d : Nat) (hd : 0 < d) :
    (2 * (rnd n d * d - n)).natAbs ≤ d ∧
      ((2 * (rnd n d * d - n)).natAbs = d → n.natAbs < (rnd n d * d).natAbs) := by
  obtain ⟨m, rfl | rfl⟩ := n.eq_nat_or_neg
  · exact rnd_natCast_nearest m d hd
  · have hm := rnd_natCast_nearest m d hd
    rw [rnd_neg _ d hd, neg_mul]
    omega

/-- The result of RND never has the sign opposite to the rounded number's. -/
theorem rnd_sign_agrees (n : Int) (d : Nat) (hd : 0 < d) : 0 ≤ n.sign * (rnd n d).sign := by
  rw [← Int.sign_mul, Int.sign_nonneg_iff]
  obtain ⟨m, rfl | rfl⟩ := n.eq_nat_or_neg
  · exact mul_nonneg (Int.natCast_nonneg m) (rnd_nonneg m d hd)
  · rw [rnd_neg _ d hd, neg_mul_neg]
    exact mul_nonneg (Int.natCast_nonneg m) (rnd_nonneg m d hd)

/-- Settles O41: the rounded quotient of the magnitude, carried to the negative numbers by oddness. -/
theorem roundingIsNearest : Obligations.RoundingIsNearest := by
  intro n d hd
  obtain ⟨hnear, htie⟩ := rnd_nearest n d hd
  exact ⟨hnear, htie, rnd_neg n d hd, rnd_sign_agrees n d hd⟩

end Sys2Proof.Machine
end

section
/-! Proofs of the statements on the state: what can change the snapshot, the published fields and the configuration (R41, R46,
R359, R360), what channel B reaches (R30, R152), reset (R31, R354), and the completion of every instruction (R34). -/

namespace Sys2Proof.Machine

open Sys2Proof.Claims

/-! ### Reset and completion -/

theorem resetBlock_eq (s : State) :
    resetBlock s = { State.reset with params := s.params, pins := s.pins, stim := s.stim } := rfl

/-- Settles O9: the step's first branch, whose `resetBlock` is the reset state with the parameters kept and the cycle's inputs. -/
theorem resetCycle : Obligations.ResetCycle := by
  intro s c rest hs hr
  simpa [resetBlock_eq] using step_of_rst hs hr

/-- Settles O11: every meaning ends in a next state, the checked writes on both of their branches. -/
theorem everyInstructionCompletes : Obligations.EveryInstructionCompletes := exec_completes

/-! ### A step that does not reset the block -/

@[simp] theorem busErrorCycle_mc (code : ErrCode) (a : Addr) (s : State) :
    (busErrorCycle code a s).mc = (ownPhases s).n.mc := by simp [busErrorCycle_eq]
@[simp] theorem busErrorCycle_regs (code : ErrCode) (a : Addr) (s : State) :
    (busErrorCycle code a s).regs = (ownPhases s).n.regs := by simp [busErrorCycle_eq]

/-- A step that does not reset the block leaves both units and the registers as the own phases left them, or performs an
instruction that passed its checks (R88, R130, R303). -/
theorem step_ownPhases_or_performed {s t : State} (h : step s = .next t) (hn : ¬ nextResets s) :
    ∃ c rest, s.stim = c :: rest ∧
      ((t.enc = (ownPhases (s.withInputs c.pins rest)).n.enc ∧ t.mc = (ownPhases (s.withInputs c.pins rest)).n.mc ∧
          t.regs = (ownPhases (s.withInputs c.pins rest)).n.regs) ∨
        ∃ w i, nextWord s w ∧ decode w = .ok i ∧ checks (s.withInputs c.pins rest) i = none ∧
          t = performed (s.withInputs c.pins rest) i) := by
  obtain ⟨c, rest, hs, hform⟩ := step_form h
  refine ⟨c, rest, hs, ?_⟩
  obtain ⟨hr | ⟨hr, w, hq, hd⟩, -⟩ | ⟨-, -, rfl⟩ | ⟨-, w, code, -, rfl, -⟩ | ⟨hr, w, i, hq, hd, -, hc, rfl⟩ := hform
  · exact absurd (.inl ⟨c, rest, hs, hr⟩) hn
  · exact absurd (nextResets_of_softReset hs hr hq hd) hn
  · exact .inl ⟨idleCycle_enc _, idleCycle_mc _, idleCycle_regs _⟩
  · exact .inl ⟨busErrorCycle_enc _ _ _, busErrorCycle_mc _ _ _, busErrorCycle_regs _ _ _⟩
  · exact .inr ⟨w, i, ⟨c, rest, hs, hr, hq⟩, hd, hc, rfl⟩

/-! ### The snapshot and the published fields (R41) -/

/-- The same published fields. -/
def PublishedAgrees (e e' : EncState) : Prop :=
  e.pubCount = e'.pubCount ∧ e.pubDir = e'.pubDir ∧ e.pubSpeed = e'.pubSpeed ∧ e.pubNeg = e'.pubNeg

theorem PublishedAgrees.trans {e e' e'' : EncState} (h : PublishedAgrees e e') (h' : PublishedAgrees e' e'') :
    PublishedAgrees e e'' := by
  obtain ⟨hcount, hdir, hspeed, hneg⟩ := h
  obtain ⟨hcount', hdir', hspeed', hneg'⟩ := h'
  exact ⟨hcount.trans hcount', hdir.trans hdir', hspeed.trans hspeed', hneg.trans hneg'⟩

/-- The instructions that can change the encoder state; all others leave it. -/
theorem effect_enc_cases (s : State) (i : Instr) (n : State) :
    (effect s i n).enc = n.enc ∨ i = .rdEncCount ∨ i = .cmdEncStart ∨ i = .cmdEncStop ∨ i = .cmdMcStart ∨
      ∃ v, i = .wrEncCfg v := by
  by_contra! hno
  obtain ⟨henc, hcount, hstart, hstop, hloop, hcfg⟩ := hno
  exact henc (effect_enc s n ⟨hcount, hcfg, hstart, hstop, hloop⟩)

/-- Of these, RD ENC_COUNT writes the snapshot alone, so the published fields change by the others only. -/
theorem effect_published_cases (s : State) (i : Instr) (n : State) :
    PublishedAgrees (effect s i n).enc n.enc ∨ i = .cmdEncStart ∨ i = .cmdEncStop ∨ i = .cmdMcStart ∨
      ∃ v, i = .wrEncCfg v := by
  obtain henc | rfl | hi := effect_enc_cases s i n
  · exact .inl (by rw [henc]; exact ⟨rfl, rfl, rfl, rfl⟩)
  · exact .inl ⟨rfl, rfl, rfl, rfl⟩
  · exact .inr hi

/-- Without a strobe of a running encoder the own phases keep the published fields (R164). -/
theorem ownPhases_published {s : State} (h : ¬ (s.enc.run = true ∧ s.enc.scnt.toNat + 1 = s.regs.sper.toNat)) :
    PublishedAgrees (ownPhases s).n.enc s.enc := by
  rw [ownPhases_enc_eq]
  split
  next hrun =>
    obtain ⟨-, -, -, hcount, hdir, hspeed, hneg, -⟩ := edgedEnc_frame s
    rw [sampledEnc, if_neg fun hstrobe => h ⟨hrun, hstrobe⟩]
    exact ⟨hcount, hdir, hspeed, hneg⟩
  next => exact ⟨rfl, rfl, rfl, rfl⟩

/-- Settles O52: the own phases never touch the snapshot, and of the instructions only those named touch the encoder state. -/
theorem snapshotChangesOnly : Obligations.SnapshotChangesOnly := by
  intro s t h
  by_cases hn : nextResets s
  · exact .inr (.inl hn)
  obtain ⟨c, rest, -, ⟨henc, -, -⟩ | ⟨w, i, hw, hd, -, rfl⟩⟩ := step_ownPhases_or_performed h hn
  · exact .inl (by rw [henc]; exact ownPhases_snapshot _)
  obtain henc | hi := effect_enc_cases (s.withInputs c.pins rest) i (ownPhases (s.withInputs c.pins rest)).n
  · exact .inl (by rw [performed_enc, henc]; exact ownPhases_snapshot _)
  · exact .inr (.inr ⟨w, hw, by simpa [hd] using hi⟩)

/-- Settles O53: in a cycle without a strobe the own phases keep the published fields, and of the instructions only those named
touch them. -/
theorem publishedStateChangesOnly : Obligations.PublishedStateChangesOnly := by
  intro s t h
  by_cases hn : nextResets s
  · exact .inr (.inr (.inl hn))
  by_cases hstrobe : s.enc.run = true ∧ s.enc.scnt.toNat + 1 = s.regs.sper.toNat
  · exact .inr (.inl hstrobe)
  obtain ⟨c, rest, -, hstep⟩ := step_ownPhases_or_performed h hn
  have hown := ownPhases_published (s := s.withInputs c.pins rest) hstrobe
  obtain ⟨henc, -, -⟩ | ⟨w, i, hw, hd, -, rfl⟩ := hstep
  · exact .inl (by rw [henc]; exact hown)
  obtain heff | hi := effect_published_cases (s.withInputs c.pins rest) i (ownPhases (s.withInputs c.pins rest)).n
  · exact .inl (PublishedAgrees.trans heff hown)
  · exact .inr (.inr (.inr ⟨w, hw, by simpa [hd] using hi⟩))

/-! ### The configuration (R46, R360) -/

/-- The same configuration of the encoder. -/
def EncConfigAgrees (r r' : Regs) : Prop := r.quad = r'.quad ∧ r.res = r'.res ∧ r.sper = r'.sper

/-- The configuration of the loop: its registers but the target. -/
def loopConfig (r : Regs) : Regs := { r with target := 0#32, quad := false, res := 0#16, sper := 0#32 }

/-- Of the registers the own phases write the target alone, so both configurations stay (R182). -/
theorem ownPhases_config (s : State) :
    EncConfigAgrees (ownPhases s).n.regs s.regs ∧ loopConfig (ownPhases s).n.regs = loopConfig s.regs := by
  rw [ownPhases_regs]
  split <;> exact ⟨⟨rfl, rfl, rfl⟩, rfl⟩

/-- An instruction that passes its checks while the encoder runs keeps the encoder's configuration: its three writes are refused
(R46). -/
theorem effect_encConfig {s : State} {i : Instr} (hrun : s.enc.run = true) (hc : checks s i = none) (n : State) :
    EncConfigAgrees (effect s i n).regs n.regs := by
  have hbusy : checkEncStopped s ≠ none := by simp [checkEncStopped_of_run hrun]
  cases i with
  | wrEncCfg v | wrEncRes v | wrEncSper v => exact absurd hc hbusy
  | cmdMcStart => exact (loopInit_regs s n) ▸ ⟨rfl, rfl, rfl⟩
  | _ => exact ⟨rfl, rfl, rfl⟩

/-- An instruction that passes its checks while the loop runs keeps the loop's configuration: its eight writes are refused
(R46). -/
theorem effect_loopConfig {s : State} {i : Instr} (hrun : s.mc.run = true) (hc : checks s i = none) (n : State) :
    loopConfig (effect s i n).regs = loopConfig n.regs := by
  have hbusy : checkMcStopped s ≠ none := by simp [checkMcStopped_of_run hrun]
  cases i with
  | wrMcKp v | wrMcKi v | wrMcKd v | wrMcMinDuty v | wrMcMaxSpeed v | wrMcPeriod v | wrMcPwmFreq v | wrMcPat v =>
    exact absurd hc hbusy
  | cmdMcStart => exact congrArg loopConfig (loopInit_regs s n)
  | _ => rfl

/-- Settles O55: the own phases keep both configurations, and so does every instruction that passes its checks. -/
theorem configurationFrozenWhileRunning : Obligations.ConfigurationFrozenWhileRunning := by
  intro s t h hn
  obtain ⟨c, rest, -, hstep⟩ := step_ownPhases_or_performed h hn
  obtain ⟨⟨hquad, hres, hsper⟩, hloop⟩ := ownPhases_config (s.withInputs c.pins rest)
  obtain ⟨-, -, hregs⟩ | ⟨w, i, -, -, hc, rfl⟩ := hstep
  · rw [hregs]
    exact ⟨fun _ => ⟨hquad, hres, hsper⟩, fun _ => hloop⟩
  · refine ⟨fun hrun => ?_, fun hrun => ?_⟩
    · obtain ⟨hquad', hres', hsper'⟩ := effect_encConfig (s := s.withInputs c.pins rest) hrun hc (ownPhases _).n
      exact ⟨hquad'.trans hquad, hres'.trans hres, hsper'.trans hsper⟩
    · exact (effect_loopConfig (s := s.withInputs c.pins rest) hrun hc _).trans hloop

/-! ### Channel B in single-channel mode (R30, R152) -/

/-- The state with other levels of channel B, `b` now and `q` in the previous cycle. -/
def State.withChannelB (s : State) (b q : Bool) : State :=
  { s with pins := { s.pins with b := b }, enc := { s.enc with bQ := q } }

@[simp] theorem State.withChannelB_params (s : State) (b q : Bool) : (s.withChannelB b q).params = s.params := rfl
@[simp] theorem State.withChannelB_flags (s : State) (b q : Bool) : (s.withChannelB b q).flags = s.flags := rfl
@[simp] theorem State.withChannelB_cap (s : State) (b q : Bool) : (s.withChannelB b q).cap = s.cap := rfl
@[simp] theorem State.withChannelB_pins (s : State) (b q : Bool) :
    (s.withChannelB b q).pins = { s.pins with b := b } := rfl
@[simp] theorem State.withChannelB_stim (s : State) (b q : Bool) : (s.withChannelB b q).stim = s.stim := rfl

/-- Neither the loop's phase nor the fault stop looks at channel B (R200 to R213), in any mode. -/
theorem ownPhases_withChannelB_mc (s : State) (b q : Bool) :
    (ownPhases (s.withChannelB b q)).n.mc = (ownPhases s).n.mc := by
  rw [ownPhases_mc_eq, ownPhases_mc_eq]
  rfl

theorem ownPhases_withChannelB_regs (s : State) (b q : Bool) :
    (ownPhases (s.withChannelB b q)).n.regs = (ownPhases s).n.regs := by
  rw [ownPhases_regs, ownPhases_regs]
  rfl

theorem ownPhases_withChannelB_aerr (s : State) (b q : Bool) :
    (ownPhases (s.withChannelB b q)).aerr = (ownPhases s).aerr := by
  rw [ownPhases_aerr, ownPhases_aerr]
  rfl

section ChannelB

variable {s : State} (hq : s.regs.quad = false) (b q : Bool)

include hq

theorem edgeCount_withChannelB : edgeCount (s.withChannelB b q) = edgeCount s := by
  simp [edgeCount, edgeA, edgeB, State.withChannelB, hq]

theorem edgedEnc_withChannelB : edgedEnc (s.withChannelB b q) = { edgedEnc s with bQ := b } := by
  rw [edgedEnc_eq, edgedEnc_eq, edgeCount_withChannelB hq]
  split <;> simp [State.withChannelB, hq]

theorem sampledEnc_withChannelB : sampledEnc (s.withChannelB b q) = { sampledEnc s with bQ := b } := by
  unfold sampledEnc
  rw [edgedEnc_withChannelB hq]
  by_cases hstrobe : s.enc.scnt.toNat + 1 = s.regs.sper.toNat <;> simp [State.withChannelB, hstrobe]

theorem ownPhases_withChannelB_enc :
    (ownPhases (s.withChannelB b q)).n.enc = { (ownPhases s).n.enc with bQ := b } := by
  rw [ownPhases_enc_eq, ownPhases_enc_eq, sampledEnc_withChannelB hq]
  cases hrun : s.enc.run <;> simp [State.withChannelB, hrun]

/-- The one flag channel B could set, INVALID, is set in quadrature mode only (R159, R161). -/
theorem ownPhases_withChannelB_set : (ownPhases (s.withChannelB b q)).set = (ownPhases s).set := by
  rw [ownPhases_set_eq, ownPhases_set_eq]
  simp only [State.withChannelB, hq, Bool.and_false, Bool.false_and]
  rfl

end ChannelB

/-- Settles O57, field by field: channel B reaches only the encoder's edges, and those look at it in quadrature mode only. -/
theorem singleChannelIgnoresB : Obligations.SingleChannelIgnoresB := by
  intro s b q hq
  show idleCycle (s.withChannelB b q) = _
  apply State.eq_of_fields
  case he => simp [ownPhases_withChannelB_enc hq]
  case hm => simp [ownPhases_withChannelB_mc]
  case hr => simp [ownPhases_withChannelB_regs]
  case hf => simp [ownPhases_withChannelB_set hq]
  case hc => simp [ownPhases_withChannelB_aerr]
  case hp | hb | hi | hs => simp

end Sys2Proof.Machine
end

section
/-! Proofs of the statements on the step's dispatch: a decoded word runs as its instruction in the cycle that carries it (R88,
R102, R130), and a presented word is that of the very next cycle (log 6). -/

namespace Sys2Proof.Machine

open Sys2Proof.Claims

/-- Settles O5: the step's equation for a cycle whose word decodes. -/
theorem stepRunsDecodedInstruction : Obligations.StepRunsDecodedInstruction :=
  fun _ _ _ _ _ => step_of_decode_ok

/-! ### A presented word (log 6, log 7) -/

/-- A table number reads as an instruction exactly where it is a word of the bus and that word decodes to it (log 7). -/
theorem decodeTableWord_eq_some_iff {nbits w : Nat} {i : Instr} :
    decodeTableWord nbits w = some i ↔ ∃ b, tableBusWord nbits w = some b ∧ decode b = .ok i := by
  unfold decodeTableWord
  cases htable : tableBusWord nbits w with
  | none => simp
  | some b => cases hd : decode b <;> simp [Except.toOption, hd]

theorem State.withFetchWord_of_tableBusWord (s : State) {nbits w : Nat} {b : BusWord}
    (h : tableBusWord nbits w = some b) : s.withFetchWord nbits w = presentWord s b := by
  simp [State.withFetchWord, h]

@[simp] theorem presentWord_stim (s : State) (b : BusWord) :
    (presentWord s b).stim = { rst := false, pins := s.pins, req := some b } :: s.stim := rfl

/-- Taking the inputs of the cycle put in front leaves the state the word was presented in. -/
@[simp] theorem presentWord_withInputs (s : State) (b : BusWord) :
    (presentWord s b).withInputs s.pins s.stim = s := rfl

theorem step_presentWord {b : BusWord} {i : Instr} (s : State) (hd : decode b = .ok i) :
    step (presentWord s b) = exec i s := by
  rw [step_of_decode_ok (presentWord_stim s b) rfl rfl hd, presentWord_withInputs]

/-- Settles O6: the number is a bus word that decodes to the instruction, and the next step takes the cycle presented with it. -/
theorem presentedWordRunsNext : Obligations.PresentedWordRunsNext := by
  intro s nbits w i h
  obtain ⟨b, htable, hd⟩ := decodeTableWord_eq_some_iff.mp h
  rw [s.withFetchWord_of_tableBusWord htable, step_presentWord s hd]

end Sys2Proof.Machine
end

section
/-! Proofs of the statements on the encoding: decoding gives an encoded instruction back (R100 to R103), a decoded word is its
instruction's encoding (R102, R108), and the illegal words are those of R106. -/

namespace Sys2Proof

open Machine

/-! ### Decode and encode agree (R100 to R103, R108) -/

theorem decode_busWord (we : Bool) (r : RegName) (v : Word) :
    decode (busWord we r.addr v) = if we then writeOf r v else .ok (readOf r) := by
  rw [decode_at (busAddr_busWord we r.addr v), busWe_busWord, busData_busWord]

/-- Settles O1: the decoder finds the fields of the encoding, and these name the instruction, a command by its code. -/
theorem decodeOfEncode : Obligations.DecodeOfEncode := by
  intro i _
  rw [encode, decode_busWord]
  cases i with
  | cmdNop | cmdEncStart | cmdEncStop | cmdMcStart | cmdMcStop | cmdClrErr | cmdSoftReset => decide
  | _ => rfl

/-- Settles O2: a decoded read has the fields of its register, and a decoded write is its encoding. -/
theorem decodedWordIsItsEncoding : Obligations.DecodedWordIsItsEncoding := by
  intro w i h
  obtain ⟨r, haddr, ⟨hwe, rfl⟩ | ⟨-, hwrite⟩⟩ := decode_ok_cases h
  · simp [encode, haddr, hwe]
  · have hw : w = encode i := command_word h (by rw [fieldsOf_of_writeOf hwrite])
    exact ⟨congrArg busWe hw, congrArg busAddr hw, fun _ => hw⟩

/-- Settles O4: each word is the bus word of the fields given here, of which a read's data stand for nothing. -/
theorem writtenWordsDecode : Obligations.WrittenWordsDecode :=
  ⟨decode_busWord false .status 0#32, decode_busWord false .encCount 0xAAAAAAAA#32,
    decode_busWord false .mcPwmFreqOut 1#32, decode_busWord true .encRes 13#32,
    decode_busWord true .mcTarget 0xFFFE0000#32, decode_busWord true .cmd 3#32⟩

/-! ### The register map by byte addresses (R45, R85) -/

/-- The registers fill the words from 0x00 to 0x2C and from 0x40 to 0x7C, in the order of the map. -/
theorem RegName.addr_all (k : Fin 28) :
    (RegName.all[k]).addr.toNat = if k.val < 12 then 4 * k.val else 4 * k.val + 0x10 := by
  revert k
  decide

theorem RegName.mem_all (r : RegName) : r ∈ RegName.all := by cases r <;> decide

theorem RegName.addr_range (r : RegName) :
    r.addr.toNat < 0x30 ∨ (0x3C < r.addr.toNat ∧ r.addr.toNat < 0x80) := by
  cases r <;> decide

theorem RegName.exists_addr_eq {a : Addr} (halign : a.toNat % 4 = 0) (hlt : a.toNat < 0x80)
    (hgap : ¬ (0x30 ≤ a.toNat ∧ a.toNat ≤ 0x3C)) : ∃ r : RegName, a = r.addr := by
  obtain ⟨k, hk⟩ : ∃ k : Fin 28, (if k.val < 12 then 4 * k.val else 4 * k.val + 0x10) = a.toNat := by
    by_cases hlow : a.toNat < 0x30
    · exact ⟨⟨a.toNat / 4, by omega⟩, by dsimp only; split <;> omega⟩
    · exact ⟨⟨(a.toNat - 0x10) / 4, by omega⟩, by dsimp only; split <;> omega⟩
  exact ⟨RegName.all[k], BitVec.eq_of_toNat_eq ((RegName.addr_all k).trans hk).symm⟩

theorem RegName.ofAddr_eq_none {a : Addr} (h : (0x30 ≤ a.toNat ∧ a.toNat ≤ 0x3C) ∨ 0x80 ≤ a.toNat) :
    RegName.ofAddr a = none := by
  cases hr : RegName.ofAddr a with
  | none => rfl
  | some r =>
    have hrange := r.addr_range
    rw [RegName.addr_of_ofAddr hr] at hrange
    omega

/-- The addresses of R106's RO_WRITE are those of the registers with access RO (R46). -/
theorem mem_readOnlyAddresses_iff {a : Addr} :
    a.toNat ∈ [0x00, 0x0C, 0x1C, 0x20, 0x24, 0x28, 0x2C, 0x64, 0x68, 0x6C, 0x70, 0x74, 0x78, 0x7C] ↔
      ∃ r : RegName, a = r.addr ∧ r.access = .ro := by
  change a.toNat ∈ (RegName.all.filter (·.access = .ro)).map (·.addr.toNat) ↔ _
  simp only [List.mem_map, List.mem_filter, RegName.mem_all, true_and, decide_eq_true_eq, BitVec.toNat_inj]
  exact exists_congr fun r => by rw [and_comm, eq_comm]

/-! ### Writes and commands that decode (R101, R102, R106) -/

theorem cmdMbz_toNat (v : Word) : (cmdMbz v).toNat = v.toNat / 256 := by
  rw [cmdMbz, BitVec.extractLsb'_toNat, Nat.shiftRight_eq_div_pow, Nat.mod_eq_of_lt (by omega)]

theorem cmdOpc_toNat (v : Word) : (cmdOpc v).toNat = v.toNat % 256 := by
  simp [cmdOpc]

theorem commandOf_illegal {v : Word} (h : 256 ≤ v.toNat ∨ 7 ≤ v.toNat % 256) : commandOf v = .error .illegalCmd := by
  unfold commandOf
  split
  next => rfl
  next hmbz =>
    have hmbz : v.toNat / 256 = 0 := by rw [← cmdMbz_toNat, not_not.mp hmbz]; rfl
    obtain ⟨k, hk⟩ := Nat.exists_eq_add_of_le' (show 7 ≤ (cmdOpc v).toNat by rw [cmdOpc_toNat]; omega)
    rw [hk]
    rfl

theorem commandOf_legal {v : Word} (h : v.toNat < 7) : ∃ i, commandOf v = .ok i := by
  obtain ⟨k, rfl⟩ : ∃ k : Fin 7, v = BitVec.ofNat 32 k.val := ⟨⟨v.toNat, h⟩, by simp⟩
  fin_cases k <;> exact ⟨_, rfl⟩

theorem writeOf_readOnly {r : RegName} (h : r.access = .ro) (v : Word) : writeOf r v = .error .roWrite := by
  cases r <;> cases h <;> rfl

theorem writeOf_writable {r : RegName} {v : Word} (hro : r.access ≠ .ro) (hcmd : r = .cmd → v.toNat < 7) :
    ∃ i, writeOf r v = .ok i := by
  cases r with
  | cmd => exact commandOf_legal (hcmd rfl)
  | id | errCause | encCount | encDir | encSpeed | encSspeed | encDbg | mcSpeed | mcPrevErr | mcIntegral | mcOutput
  | mcDuty | mcOut | mcPwmFreqOut => exact absurd rfl hro
  | _ => exact ⟨_, rfl⟩

/-! ### The illegal words (R106) -/

/-- The decoder's test of the two low address bits is divisibility by 4. -/
theorem low_bits_eq_zero_iff (a : Addr) : a.extractLsb' 0 2 = 0#2 ↔ a.toNat % 4 = 0 := by
  simp [← BitVec.toNat_inj]

theorem decode_unaligned {w : BusWord} (h : (busAddr w).toNat % 4 ≠ 0) : decode w = .error .unaligned := by
  rw [decode, if_pos (mt (low_bits_eq_zero_iff _).mp h)]

theorem decode_unmapped {w : BusWord} (halign : (busAddr w).toNat % 4 = 0) (h : RegName.ofAddr (busAddr w) = none) :
    decode w = .error .unmapped := by
  rw [decode, if_neg (not_not.mpr ((low_bits_eq_zero_iff _).mpr halign)), h]

theorem decode_read {w : BusWord} {r : RegName} (haddr : busAddr w = r.addr) (hwe : busWe w = false) :
    decode w = .ok (readOf r) := by
  simp [decode_at haddr, hwe]

theorem decode_write {w : BusWord} {r : RegName} (haddr : busAddr w = r.addr) (hwe : busWe w = true) :
    decode w = writeOf r (busData w) := by
  simp [decode_at haddr, hwe]

/-- Settles O3: an address outside the map is refused as such, and a word at a register's address by the register's access and,
for CMD, by the command's fields. -/
theorem illegalEncodings : Obligations.IllegalEncodings := by
  intro w a v ro
  refine ⟨decode_unaligned, fun halign hout => ?_, fun hwe hro => ?_, fun hwe ha hv => ?_, fun halign hlt hgap hok => ?_⟩
  · exact decode_unmapped halign (RegName.ofAddr_eq_none (hout.imp_right And.left))
  · obtain ⟨r, haddr, hacc⟩ := mem_readOnlyAddresses_iff.mp hro
    rw [decode_write haddr hwe, writeOf_readOnly hacc]
  · have haddr : busAddr w = RegName.cmd.addr := BitVec.eq_of_toNat_eq ha
    exact (decode_write haddr hwe).trans (commandOf_illegal hv)
  · obtain ⟨r, haddr⟩ := RegName.exists_addr_eq halign hlt hgap
    cases hwe : busWe w with
    | false => exact ⟨_, decode_read haddr hwe⟩
    | true =>
      obtain ⟨hro, hcmd⟩ := hok hwe
      rw [decode_write haddr hwe]
      refine writeOf_writable (fun hacc => hro ?_) (fun hr => hcmd ?_)
      · exact mem_readOnlyAddresses_iff.mpr ⟨r, haddr, hacc⟩
      · exact congrArg BitVec.toNat (hr ▸ haddr)

end Sys2Proof
end

section
/-! Proofs of the statements on the bus and the control registers: a cycle without a transaction (R144), the reads of the control
registers (R135, R136, R138, R140), the write to STATUS (R139), and the commands NOP, CLR_ERR and SOFT_RESET (R141 to R143). -/

namespace Sys2Proof.Machine

open Sys2Proof.Claims

/-! ### The encodings of the statements (R100 to R103, R131, R132) -/

theorem readEncoding_of_reg (r : RegName) : readEncoding r.addr (readOf r) := fun d => decode_busWord false r d

theorem writeEncoding_of_reg {r : RegName} {i : Word → Instr} (h : ∀ v, writeOf r v = .ok (i v)) :
    writeEncoding r.addr i := fun v => (decode_busWord true r v).trans (h v)

theorem commandEncoding_of_command {opc : Word} {i : Instr} (h : commandOf opc = .ok i) : commandEncoding opc i :=
  (decode_busWord true .cmd opc).trans h

/-! ### The cycle without a transaction (R144) -/

/-- Settles O8: the own phases by their frame, of which the fault phase alone reaches the configuration, the run flags and the
record. -/
theorem cycleWithoutTransaction : Obligations.CycleWithoutTransaction := by
  intro s c rest hs hr hq s1
  obtain ⟨hdir, hspeed, hneg⟩ := ownPhases_snapshot s1
  refine ⟨step_of_no_req hs hr hq, idleCycle_bus s1, ?regs, idleCycle_params s1, idleCycle_pins s1, idleCycle_stim s1,
    ?snapDir, ?snapSpeed, ?snapNeg, ?freq, ?encRun, ?mcRun, fun hfault => ?cap⟩
  case regs => simp [ownPhases_regs, s1, and_assoc]
  case snapDir => rw [idleCycle_enc, hdir]
  case snapSpeed => rw [idleCycle_enc, hspeed]
  case snapNeg => rw [idleCycle_enc, hneg]
  case freq => rw [idleCycle_mc, ownPhases_pwmFreqOut]
  case encRun => rw [idleCycle_enc, ownPhases_enc_run]
  case mcRun => rw [idleCycle_mc, ownPhases_mc_run]
  case cap => rw [idleCycle_cap, captureAsync_ownPhases, if_neg (by simpa [s1] using hfault)]

/-! ### Reads of the control registers -/

theorem toNat_ofBool_eq_bit (b : Bool) : (BitVec.ofBool b).toNat = bit b := by cases b <;> rfl

theorem eq_ofNat_of_toNat_eq {v : Word} {n : Nat} (h : v.toNat = n) : v = BitVec.ofNat 32 n := by
  rw [← h, BitVec.ofNat_toNat, BitVec.setWidth_eq]

/-- STATUS at the bit weights of R138. -/
theorem statusWord_eq (s : State) :
    statusWord s = BitVec.ofNat 32
      (bit s.enc.run + 2 * bit s.mc.run + 16 * bit s.cap.err + 32 * bit s.flags.pub + 64 * bit s.flags.inv
        + 128 * bit s.flags.encf + 256 * bit s.flags.mcf + 512 * bit s.flags.pidsat + 1024 * bit s.flags.dutysat) := by
  apply eq_ofNat_of_toNat_eq
  simp only [statusWord_toNat, toNat_ofBool_eq_bit]
  omega

/-- ERR_CAUSE at the bit weights of R140. -/
theorem errCauseWord_eq (s : State) :
    errCauseWord s = BitVec.ofNat 32 (s.cap.code.toNat + 256 * s.cap.addr.toNat + 2147483648 * bit s.cap.ovf) := by
  apply eq_ofNat_of_toNat_eq
  rw [errCauseWord_toNat, toNat_ofBool_eq_bit]
  omega

/-- A register read answers the register's value and leaves the cycle without a transaction otherwise (R130, R131). -/
theorem readRegister_eq_readAnswer (r : RegName) (s : State) : readRegister r s = readAnswer s (regRead s r) := rfl

/-- Settles O14: each read answers its register's value, of which STATUS and ERR_CAUSE are sums of their fields. -/
theorem readControlRegisters : Obligations.ReadControlRegisters := by
  refine ⟨readEncoding_of_reg .id, readEncoding_of_reg .cmd, readEncoding_of_reg .status, readEncoding_of_reg .errCause,
    fun s => ⟨exec_rdId s, exec_rdCmd s, ?_, ?_⟩⟩
  · rw [exec_rdStatus, readRegister_eq_readAnswer, regRead, statusWord_eq]
  · rw [exec_rdErrCause, readRegister_eq_readAnswer, regRead, errCauseWord_eq]

/-! ### Writes without an effect on the state under construction: STATUS (R139) and NOP (R141) -/

/-- The flags without those of `clr` (R139). -/
def Sticky.without (f clr : Sticky) : Sticky :=
  { pub := f.pub && !clr.pub, inv := f.inv && !clr.inv, encf := f.encf && !clr.encf, mcf := f.mcf && !clr.mcf,
    pidsat := f.pidsat && !clr.pidsat, dutysat := f.dutysat && !clr.dutysat }

/-- A cycle that clears flags is one that starts without them (R88 phase 7). -/
theorem stickyNext_without (f clr set : Sticky) : stickyNext (f.without clr) Sticky.none set = stickyNext f clr set := by
  simp [stickyNext, stickyBit, Sticky.without, Sticky.none]

/-- No phase reads the sticky flags, so the events of a cycle do not depend on them. -/
theorem ownPhases_withFlags_set (s : State) (f : Sticky) : (ownPhases (s.withFlags f)).set = (ownPhases s).set := by
  rw [ownPhases_set_eq, ownPhases_set_eq]; rfl

theorem writeCycle_id (clr : Sticky) (s : State) :
    writeCycle clr id s = (idleCycle s).withFlags (stickyNext s.flags clr (ownPhases s).set) := rfl

/-- A write that only clears flags leaves those of the cycle that starts without them. -/
theorem writeCycle_id_eq_without (clr : Sticky) (s : State) :
    writeCycle clr id s =
      (idleCycle s).withFlags (idleCycle (s.withFlags (s.flags.without clr))).flags := by
  rw [writeCycle_id, idleCycle_flags, State.withFlags_flags, stickyNext_without, ownPhases_withFlags_set]

/-- Settles O21: the flags the write clears are those of the written bits, and no phase reads them. -/
theorem writeStatusClearsFlags : Obligations.WriteStatusClearsFlags :=
  ⟨writeEncoding_of_reg (r := .status) fun _ => rfl,
    fun v s => congrArg Host.Outcome.next (writeCycle_id_eq_without (statusClears v) s)⟩

theorem writeCycle_none_id (s : State) : writeCycle Sticky.none id s = idleCycle s := by
  rw [writeCycle_id, ← idleCycle_flags]; rfl

/-- Settles O27: a write without an effect that clears no flag is the cycle without a transaction. -/
theorem nopIsNoTransaction : Obligations.NopIsNoTransaction :=
  ⟨commandEncoding_of_command rfl, fun s => ⟨congrArg Host.Outcome.next (writeCycle_none_id s), idleCycle_bus s⟩⟩

/-! ### CLR_ERR (R142) and SOFT_RESET (R143) -/

/-- The clear reaches the error record alone, and the capture of the cycle finds the record empty. -/
theorem writeCycle_clearErr (s : State) :
    writeCycle Sticky.none clearErr s =
      (idleCycle s).withCap (captureAsync (ownPhases s).aerr ErrCapture.none) := by
  rw [writeCycle_eq]; rfl

/-- Settles O28: an encoder fault is captured in the emptied record, so it leaves its code without OVF. -/
theorem clearErrorThenCapture : Obligations.ClearErrorThenCapture := by
  refine ⟨commandEncoding_of_command rfl, fun s => ?_⟩
  rw [exec_cmdClrErr, writeCycle_clearErr, captureAsync_ownPhases, capture_of_no_err rfl]
  simp only [Bool.and_eq_true]
  rfl

/-- Settles O29: the command and the cycle with `rst` both end in `resetBlock`, at the same levels. -/
theorem softResetIsReset : Obligations.SoftResetIsReset :=
  ⟨commandEncoding_of_command rfl, fun s => ⟨exec_cmdSoftReset s, fun _ => (step_of_rst rfl rfl).trans rfl⟩⟩

end Sys2Proof.Machine
end

section
/-! Proofs of the statements on the encoder: the invariant every step keeps (R162, R183), its reads, writes and commands (R167 to
R181), its own phases (R150 to R165, R182), and when a running encoder publishes (R162, R357). -/

namespace Sys2Proof.Machine

open Sys2Proof.Claims

/-! ### The encoder's part of the invariant over the instructions -/

theorem State.EncInv.of_agrees {s t : State} (h : s.EncInv) (henc : t.enc = s.enc)
    (hcfg : EncConfigAgrees t.regs s.regs) : t.EncInv := by
  obtain ⟨hquad, hres, hsper⟩ := hcfg
  rw [State.EncInv, henc, hquad, hres, hsper]
  exact h

/-- While the encoder is stopped, its part speaks of the directions and the magnitudes alone. -/
theorem encInv_of_stopped {s : State} (hrun : s.enc.run = false)
    (hidle : s.regs.quad = false → s.enc.dirLive = .forward ∧ s.enc.pubDir = .forward ∧ s.enc.snapDir = .forward)
    (hneg : (s.enc.dirLive = .backward → s.enc.lastNeg = true) ∧ (s.enc.pubDir = .backward → s.enc.pubNeg = true) ∧
      (s.enc.snapDir = .backward → s.enc.snapNeg = true))
    (hmag : s.enc.pubSpeed.toNat < 2147483648 ∧ s.enc.snapSpeed.toNat < 2147483648) : s.EncInv :=
  ⟨fun h => absurd h (by simp [hrun]), fun h => absurd h (by simp [hrun]), hidle, hneg, hmag⟩

theorem idleDir_ne_backward (q : Bool) : idleDir q ≠ .backward := by cases q <;> decide

theorem idleDir_of_single {q : Bool} (h : q = false) : idleDir q = .forward := by subst h; rfl

/-- RD ENC_COUNT copies published values, which are as the invariant asks of a snapshot (R167). -/
theorem takeSnapshot_encInv {s n : State} (hs : s.EncInv) (hn : n.EncInv) (hquad : n.regs.quad = s.regs.quad) :
    (takeSnapshot s n).EncInv := by
  obtain ⟨-, -, hidle, ⟨-, hneg, -⟩, hmag, -⟩ := hs
  obtain ⟨hrun, hhist, hidleN, ⟨hlive, hpub, -⟩, hmagN, -⟩ := hn
  refine ⟨hrun, hhist, fun hq => ?_, ⟨hlive, hpub, hneg⟩, hmagN, hmag⟩
  obtain ⟨hliveN, hpubN, -⟩ := hidleN hq
  obtain ⟨-, hpubS, -⟩ := hidle (hquad ▸ hq)
  exact ⟨hliveN, hpubN, hpubS⟩

/-- WR ENC_CFG on a stopped encoder sets all three directions to the idle direction of the new mode (R172). -/
theorem writeEncCfg_encInv {n : State} (hn : n.EncInv) (hrun : n.enc.run = false) (q : Bool) :
    (writeEncCfg q n).EncInv := by
  obtain ⟨-, -, -, -, hmag⟩ := hn
  have hne := idleDir_ne_backward q
  exact encInv_of_stopped hrun
    (fun hq => ⟨idleDir_of_single hq, idleDir_of_single hq, idleDir_of_single hq⟩)
    ⟨(absurd · hne), (absurd · hne), (absurd · hne)⟩ hmag

/-- RES and SPER of a stopped encoder are free (R174, R176). -/
theorem State.EncInv.withRegs {n : State} (hn : n.EncInv) (hrun : n.enc.run = false) {r : Regs}
    (hquad : r.quad = n.regs.quad) : (n.withRegs r).EncInv := by
  obtain ⟨-, -, hidle, hneg, hmag⟩ := hn
  exact encInv_of_stopped hrun (fun hq => hidle (hquad ▸ hq)) hneg hmag

/-- ENC_STOP leaves the cleared encoder stopped (R179, R181). -/
theorem encClear_encInv {n : State} {q : Bool} (hquad : n.regs.quad = q) (e : EncState) :
    (n.withEnc (encClear { e with run := false } q)).EncInv := by
  have hne := idleDir_ne_backward q
  have hidle (hq : n.regs.quad = false) := idleDir_of_single (hquad ▸ hq)
  exact encInv_of_stopped rfl (fun hq => ⟨hidle hq, hidle hq, hidle hq⟩)
    ⟨(absurd · hne), (absurd · hne), (absurd · hne)⟩ ⟨Nat.two_pow_pos 31, Nat.two_pow_pos 31⟩

theorem checkEncStopped_eq_none {s : State} : checkEncStopped s = none ↔ s.enc.run = false := by
  cases h : s.enc.run <;> simp [checkEncStopped, h]

theorem checkMcStopped_eq_none {s : State} : checkMcStopped s = none ↔ s.mc.run = false := by
  cases h : s.mc.run <;> simp [checkMcStopped, h]

theorem checkEncStop_eq_none {s : State} : checkEncStop s = none ↔ s.mc.run = false := by
  cases h : s.mc.run <;> simp [checkEncStop, h]

/-- A unit that is stopped at the start of a cycle is stopped after the own phases. -/
theorem ownPhases_enc_stopped {s : State} (h : s.enc.run = false) : (ownPhases s).n.enc.run = false := by
  simp [ownPhases_enc_run, h]

theorem ownPhases_mc_stopped {s : State} (h : s.mc.run = false) : (ownPhases s).n.mc.run = false := by
  simp [ownPhases_mc_run, h]

/-- Every instruction that passes its checks keeps the encoder's part. -/
theorem performed_encInv {s : State} {i : Instr} (h : s.EncInv) (hc : checks s i = none) : (performed s i).EncInv := by
  have hown := ownPhases_encInv s h
  obtain ⟨⟨hquad, hres, hsper⟩, -⟩ := ownPhases_config s
  have hstart (hres' : s.regs.res ≠ 0#16) (hsper' : s.regs.sper ≠ 0#32) :=
    encInit_encInv s (ownPhases s).n hquad (ownPhases_levels s) (hres ▸ hres') (hsper ▸ hsper')
  have hstopped (hc : checkEncStopped s = none) := ownPhases_enc_stopped (checkEncStopped_eq_none.mp hc)
  suffices heff : (effect s i (ownPhases s).n).EncInv from heff.of_agrees rfl ⟨rfl, rfl, rfl⟩
  cases i with
  | rdEncCount => exact takeSnapshot_encInv h hown hquad
  | wrEncCfg v => exact writeEncCfg_encInv hown (hstopped hc) _
  | wrEncRes v | wrEncSper v => exact hown.withRegs (hstopped hc) rfl
  | cmdEncStart =>
    obtain ⟨-, hres', hsper', -⟩ := checkEncStart_eq_none.mp hc
    exact hstart hres' hsper'
  | cmdEncStop => exact encClear_encInv hquad _
  | cmdMcStart =>
    obtain ⟨-, hcfg, -⟩ := checkMcStart_eq_none.mp hc
    show (loopInit s _).EncInv
    cases hrun : s.enc.run with
    | true => exact hown.of_agrees (by simp [loopInit_enc, hrun]) (by simp [EncConfigAgrees])
    | false =>
      obtain ⟨hres', hsper'⟩ := hcfg.resolve_left (by simp [hrun])
      exact (hstart hres' hsper').of_agrees (by simp [loopInit_enc, hrun]) (by simp [EncConfigAgrees])
  | _ => exact hown.of_agrees rfl ⟨rfl, rfl, rfl⟩

/-! ### The control loop's part -/

theorem State.McInv.of_agrees {s t : State} (h : s.McInv) (hparams : t.params = s.params) (hmc : t.mc = s.mc)
    (hrun : s.mc.run = true → s.enc.run = true → t.enc.run = true) (hcfg : loopConfig t.regs = loopConfig s.regs) :
    t.McInv := by
  obtain ⟨-, -, -, -, -, -, -, hduty, hspeed, hperiod, -, hfwd, hbwd, hstop⟩ := Regs.mk.inj hcfg
  obtain ⟨hon, hrest⟩ := h
  rw [State.McInv, hparams, hmc, hperiod, hspeed, hduty, hfwd, hbwd, hstop]
  exact ⟨fun hm => (hon hm).imp_left (hrun hm), hrest⟩

/-- No pattern has a bit at or above N_DIR (R67). -/
def PatternsFit (p : Params) (r : Regs) : Prop :=
  r.patFwd &&& patMask p = r.patFwd ∧ r.patBwd &&& patMask p = r.patBwd ∧ r.patStop &&& patMask p = r.patStop

/-- A cleared loop's part speaks of the duty limit and the patterns alone (R63, R67, R213). -/
theorem mcInv_of_cleared {s : State} {m : McState} (hclear : s.mc = mcClear m) (hduty : s.regs.minDuty.toNat ≤ 65536)
    (hpat : PatternsFit s.params s.regs) : s.McInv := by
  rw [State.McInv, hclear]
  exact ⟨nofun, nofun, fun _ => rfl, ⟨hduty, Nat.zero_le _, Nat.zero_le _⟩, hpat⟩

theorem State.McInv.withRegs {s : State} (h : s.McInv) (hrun : s.mc.run = false) {r : Regs}
    (hduty : r.minDuty.toNat ≤ 65536) (hpat : PatternsFit s.params r) : (s.withRegs r).McInv := by
  obtain ⟨-, -, hclear, -⟩ := h
  exact mcInv_of_cleared (hclear hrun) hduty hpat

theorem minDutyOperand_le (v : Word) : (minDutyOperand v).toNat ≤ 65536 := by
  unfold minDutyOperand
  rw [BitVec.toNat_ofNat]
  omega

/-- MC_START arms the loop at the start of a period, with a pattern selected and no duty waiting (R212). -/
theorem loopInit_mcInv {s n : State} (hn : n.McInv) (hrun : s.enc.run = true → n.enc.run = true)
    (hperiod : 2 ≤ n.regs.period.toNat) (hspeed : n.regs.maxSpeed ≠ 0#32) : (loopInit s n).McInv := by
  obtain ⟨-, -, -, ⟨hduty, hpwm, -⟩, hpat⟩ := hn
  have henc : (loopInit s n).enc.run = true := by
    rw [loopInit_enc]
    split
    · exact hrun ‹_›
    · rfl
  rw [State.McInv, loopInit_mc, loopInit_regs, loopInit_params, henc]
  exact ⟨fun _ => ⟨rfl, hperiod, hspeed, Nat.lt_of_lt_of_le Nat.two_pos hperiod, nofun⟩, nofun, nofun,
    ⟨hduty, hpwm, Nat.zero_le _⟩, hpat⟩

/-- Every instruction that passes its checks keeps the loop's part. -/
theorem performed_mcInv {s : State} {i : Instr} (h : s.McInv) (hc : checks s i = none) : (performed s i).McInv := by
  have hown := ownPhases_mcInv s h
  obtain ⟨-, -, -, ⟨hduty, -⟩, hpat⟩ := ownPhases_mcInv s h
  have hstopped (hc : checkMcStopped s = none) := ownPhases_mc_stopped (checkMcStopped_eq_none.mp hc)
  suffices heff : (effect s i (ownPhases s).n).McInv from heff.of_agrees (by simp) rfl (fun _ => id) rfl
  cases i with
  | wrMcKp v | wrMcKi v | wrMcKd v | wrMcMaxSpeed v | wrMcPeriod v | wrMcPwmFreq v =>
    exact hown.withRegs (hstopped hc) hduty hpat
  | wrMcMinDuty v => exact hown.withRegs (hstopped hc) (minDutyOperand_le v) hpat
  | wrMcPat v =>
    exact hown.withRegs (hstopped hc) hduty
      ⟨patOperand_masked _ v 0, patOperand_masked _ v 8, patOperand_masked _ v 16⟩
  | cmdEncStart => exact hown.of_agrees rfl rfl (fun _ _ => rfl) rfl
  | cmdEncStop =>
    have hoff := ownPhases_mc_stopped (checkEncStop_eq_none.mp hc)
    exact hown.of_agrees rfl rfl (fun hon => absurd hon (by simp [hoff])) rfl
  | cmdMcStart =>
    obtain ⟨-, -, hperiod, hspeed, hfault⟩ := checkMcStart_eq_none.mp hc
    obtain ⟨-, -, -, -, -, -, -, -, hspeed', hperiod', -⟩ := Regs.mk.inj (ownPhases_config s).2
    have hon (hrun : s.enc.run = true) : (ownPhases s).n.enc.run = true := by simp [ownPhases_enc_run, hrun, hfault]
    exact loopInit_mcInv hown hon (hperiod' ▸ hperiod) (hspeed' ▸ hspeed)
  | cmdMcStop => exact mcInv_of_cleared rfl hduty hpat
  | _ => exact hown.of_agrees rfl rfl (fun _ => id) rfl

/-! ### The error record and the bus response -/

theorem capInv_iff {s : State} : s.CapInv ↔ CapOk s.cap ∧ (s.bus.err = true → s.bus.rdata = 0#32) := and_assoc.symm

theorem capOk_none : CapOk ErrCapture.none := ⟨fun _ => rfl, nofun⟩

theorem idleCycle_capOk {s : State} (h : CapOk s.cap) : CapOk (idleCycle s).cap := by
  rw [idleCycle_cap]
  exact captureAsync_keepsCapOk s _ h

theorem performed_capInv {s : State} (h : CapOk s.cap) (i : Instr) : (performed s i).CapInv := by
  refine capInv_iff.mpr ⟨?_, nofun⟩
  rw [performed_cap]
  apply captureAsync_keepsCapOk
  by_cases hi : i = .cmdClrErr
  · subst hi
    exact capOk_none
  · rwa [effect_cap s hi, ownPhases_cap]

/-! ### The whole invariant (R162, R183, R200 to R202, R245, R306) -/

theorem resetBlock_inv {s : State} (h : s.params.wf) : (resetBlock s).Inv :=
  ⟨h, encInv_of_stopped rfl nofun ⟨nofun, nofun, nofun⟩ ⟨Nat.two_pow_pos 31, Nat.two_pow_pos 31⟩,
    mcInv_of_cleared (m := McState.reset) rfl (Nat.zero_le _) ⟨BitVec.zero_and, BitVec.zero_and, BitVec.zero_and⟩,
    capInv_iff.mpr ⟨capOk_none, nofun⟩⟩

theorem idleCycle_inv {s : State} (h : s.Inv) : (idleCycle s).Inv := by
  obtain ⟨hparams, henc, hmc, hcap⟩ := h
  refine ⟨?_, (ownPhases_encInv s henc).of_agrees (idleCycle_enc s) (by simp [EncConfigAgrees]),
    (ownPhases_mcInv s hmc).of_agrees (by simp) (idleCycle_mc s) (by simp) (by simp),
    capInv_iff.mpr ⟨idleCycle_capOk (capInv_iff.mp hcap).1, by simp [BusResp.idle]⟩⟩
  rwa [idleCycle_params]

/-- An error answer differs from the cycle without a transaction in the record and the response (R303, R306). -/
theorem busErrorCycle_inv {s : State} (h : s.Inv) {code : ErrCode} (hcode : code ≠ .encHwFault) (a : Addr) :
    (busErrorCycle code a s).Inv := by
  obtain ⟨hparams, henc, hmc, hcap⟩ := idleCycle_inv h
  exact ⟨hparams, henc, hmc, capInv_iff.mpr
    ⟨capture_keepsCapOk _ (capInv_iff.mp hcap).1 code a (.inl hcode), fun _ => rfl⟩⟩

theorem performed_inv {s : State} (h : s.Inv) {i : Instr} (hc : checks s i = none) : (performed s i).Inv := by
  obtain ⟨hparams, henc, hmc, hcap⟩ := h
  refine ⟨?_, performed_encInv henc hc, performed_mcInv hmc hc, performed_capInv (capInv_iff.mp hcap).1 i⟩
  rwa [performed_params]

/-- Settles O46, over the forms a step can have: taking the inputs touches nothing the invariant speaks of, and each form
keeps it. -/
theorem stepKeepsInvariant : Obligations.StepKeepsInvariant := by
  intro s t h hstep
  obtain ⟨c, rest, -, hform⟩ := step_form hstep
  have h1 : (s.withInputs c.pins rest).Inv := h
  obtain ⟨-, rfl⟩ | ⟨-, -, rfl⟩ | ⟨-, w, code, -, rfl, hcode⟩ | ⟨-, w, i, -, -, -, hc, rfl⟩ := hform
  · exact resetBlock_inv h1.1
  · exact idleCycle_inv h1
  · refine busErrorCycle_inv h1 ?_ _
    obtain hd | ⟨i, -, hc⟩ := hcode
    · exact decode_error_ne_encHwFault w code hd
    · exact checks_ne_encHwFault _ i code hc
  · exact performed_inv h1 hc

/-! ### The own phases of a stopped unit (R150, R151, R200) -/

theorem idleCycle_enc_stopped {s : State} (h : s.enc.run = false) :
    (idleCycle s).enc = { s.enc with aQ := s.pins.a, bQ := s.pins.b } := by
  simp [ownPhases_enc_eq, h]

theorem idleCycle_mc_stopped {s : State} (h : s.mc.run = false) : (idleCycle s).mc = s.mc := by
  simp [ownPhases_mc_eq, h]

theorem idleCycle_regs_stopped {s : State} (h : s.mc.run = false) : (idleCycle s).regs = s.regs := by
  simp [ownPhases_regs, h]

/-- The sticky flags after a cycle without a transaction: each as it was, or set by its event (R88 phase 7). -/
theorem idleCycle_flags_eq (s : State) :
    (idleCycle s).flags =
      { pub := s.flags.pub || (s.enc.run && decide (s.enc.scnt.toNat + 1 = s.regs.sper.toNat))
        inv := s.flags.inv || (s.enc.run && (decide (edgeCount s ≠ 0) && s.regs.quad &&
          decide (tableDir (nextHist s.enc.hist (pairOf s.pins.a s.pins.b)) = .invalid)))
        encf := s.flags.encf || (s.enc.run && s.pins.fault)
        mcf := s.flags.mcf || (s.enc.run && s.pins.fault && s.mc.run)
        pidsat := s.flags.pidsat || (s.mc.run && decide (s.mc.mcnt = 0#32) && (controlTick s).pidSat)
        dutysat := s.flags.dutysat ||
          (s.mc.run && decide (s.mc.mcnt = 0#32) && decide (65536 < (controlTick s).du.natAbs)) } := by
  rw [idleCycle_flags, ownPhases_set_eq]
  simp [stickyNext, stickyBit, Sticky.none]

theorem idleCycle_stopped {s : State} (he : s.enc.run = false) (hm : s.mc.run = false) :
    idleCycle s = { s with enc := { s.enc with aQ := s.pins.a, bQ := s.pins.b }, bus := { rdata := 0#32, err := false } } := by
  apply State.eq_of_fields
  case he => exact idleCycle_enc_stopped he
  case hm => exact idleCycle_mc_stopped hm
  case hr => exact idleCycle_regs_stopped hm
  case hf => rw [idleCycle_flags_eq]; simp [he, hm]
  case hc => simp [captureAsync_ownPhases, he]
  case hb => exact idleCycle_bus s
  case hp | hi | hs => simp

/-- Settles O35: the unit's own phases are skipped while it is stopped, and none of the others touches it. -/
theorem stoppedUnitsHold : Obligations.StoppedUnitsHold := fun _ =>
  ⟨idleCycle_enc_stopped, fun hm => ⟨idleCycle_mc_stopped hm, idleCycle_regs_stopped hm⟩, idleCycle_stopped⟩

/-! ### Reads (R167 to R171, R173, R175, R177) -/

theorem bitField_zero_eq (b : Bool) : bitField b 0 = BitVec.ofNat 32 (bit b) := by cases b <;> rfl

theorem Dir.code_toNat (d : Dir) : d.code.toNat = dirCode d := by cases d <;> rfl

/-- Settles O15: each read answers its register's value, zero-extended. -/
theorem readEncoderConfiguration : Obligations.ReadEncoderConfiguration := by
  refine ⟨readEncoding_of_reg .encCfg, readEncoding_of_reg .encRes, readEncoding_of_reg .encSper, fun s => ⟨?_, ?_, rfl⟩⟩
  · rw [exec_rdEncCfg, readRegister_eq_readAnswer, regRead, bitField_zero_eq]
  · rw [exec_rdEncRes, readRegister_eq_readAnswer, regRead, BitVec.ofNat_toNat]

theorem readCycle_takeSnapshot (v : Word) (s : State) :
    readCycle v (takeSnapshot s) s =
      { idleCycle s with
        bus := { rdata := v, err := false }
        enc := { (idleCycle s).enc with
          snapDir := s.enc.pubDir, snapSpeed := s.enc.pubSpeed, snapNeg := s.enc.pubNeg } } := rfl

/-- Settles O16: count and snapshot are both taken from the state at the start of the cycle. -/
theorem readCountTakesSnapshot : Obligations.ReadCountTakesSnapshot :=
  ⟨readEncoding_of_reg .encCount, fun s => congrArg Host.Outcome.next (readCycle_takeSnapshot s.enc.pubCount s)⟩

/-- Settles O17: the three values of the snapshot, the speed signed by `signedSpeed`; the invariant bounds the magnitude. -/
theorem readSnapshot : Obligations.ReadSnapshot := by
  refine ⟨readEncoding_of_reg .encDir, readEncoding_of_reg .encSpeed, readEncoding_of_reg .encSspeed,
    fun s => ⟨?_, rfl, ?_, fun hinv => ?_⟩⟩
  · rw [exec_rdEncDir, readRegister_eq_readAnswer, regRead, ← Dir.code_toNat, BitVec.ofNat_toNat]
  · rw [exec_rdEncSspeed, readRegister_eq_readAnswer, regRead, u32_signedSpeed]
  · obtain ⟨-, -, -, -, -, hmag⟩ := hinv
    exact Nat.testBit_lt_two_pow hmag

/-- ENC_DBG at the bit weights of R58. -/
theorem encDbgWord_eq (s : State) :
    encDbgWord s = BitVec.ofNat 32
      (s.enc.hist.toNat + 16 * dirCode s.enc.dirLive + 256 * bit s.enc.lastNeg + 4096 * bit s.enc.aQ
        + 8192 * bit s.enc.bQ) := by
  apply eq_ofNat_of_toNat_eq
  simp only [encDbgWord_toNat, toNat_ofBool_eq_bit, Dir.code_toNat]
  omega

/-- Settles O18: the word is the sum of its fields. -/
theorem readEncoderDebug : Obligations.ReadEncoderDebug := by
  refine ⟨readEncoding_of_reg .encDbg, fun s => ?_⟩
  rw [exec_rdEncDbg, readRegister_eq_readAnswer, regRead, encDbgWord_eq]

/-! ### A checked write: refused, or its effect on the cycle without a transaction (R130, R303) -/

theorem checkedWrite_refused {r : RegName} {check : Option ErrCode} {code : ErrCode} {s : State} (f : State → State)
    (h : check = some code) : checkedWrite r check f s = .next (errorAnswer s code.code r.addr) := by
  subst h; rfl

theorem checkedWrite_performed {r : RegName} {check : Option ErrCode} {s : State} (f : State → State) (h : check = none) :
    checkedWrite r check f s = .next (writeCycle Sticky.none f s) := by
  subst h; rfl

theorem writeCycle_withRegs (g : Regs → Regs) (s : State) :
    writeCycle Sticky.none (fun n => n.withRegs (g n.regs)) s = { idleCycle s with regs := g (idleCycle s).regs } := by
  rw [writeCycle_eq]; rfl

theorem writeCycle_withEnc (g : EncState → EncState) (s : State) :
    writeCycle Sticky.none (fun n => n.withEnc (g n.enc)) s = { idleCycle s with enc := g (idleCycle s).enc } := by
  rw [writeCycle_eq]; rfl

theorem writeCycle_writeEncCfg (q : Bool) (s : State) :
    writeCycle Sticky.none (writeEncCfg q) s =
      { idleCycle s with
        regs := { (idleCycle s).regs with quad := q }
        enc := { (idleCycle s).enc with dirLive := idleDir q, pubDir := idleDir q, snapDir := idleDir q } } := by
  rw [writeCycle_eq]; rfl

theorem resOperand_eq (v : Word) : resOperand v = BitVec.ofNat 16 v.toNat := by
  simp [resOperand, BitVec.extractLsb']

/-- Settles O22: the one check of the three writes, and, where it passes, what each stores over the cycle without a
transaction. -/
theorem writeEncoderConfiguration : Obligations.WriteEncoderConfiguration := by
  refine ⟨writeEncoding_of_reg (r := .encCfg) fun _ => rfl, writeEncoding_of_reg (r := .encRes) fun _ => rfl,
    writeEncoding_of_reg (r := .encSper) fun _ => rfl, fun v s => ⟨fun hrun => ?_, fun hrun => ?_⟩⟩
  · have hpass := checkEncStopped_of_stopped hrun
    refine ⟨?_, ?_, ?_⟩
    · rw [exec_wrEncCfg, checkedWrite_performed _ hpass, writeCycle_writeEncCfg]; rfl
    · rw [exec_wrEncRes, checkedWrite_performed _ hpass, ← resOperand_eq]
      exact congrArg _ (writeCycle_withRegs (fun r => { r with res := resOperand v }) s)
    · rw [exec_wrEncSper, checkedWrite_performed _ hpass]
      exact congrArg _ (writeCycle_withRegs (fun r => { r with sper := v }) s)
  · have hbusy := checkEncStopped_of_run hrun
    exact ⟨checkedWrite_refused _ hbusy, checkedWrite_refused _ hbusy, checkedWrite_refused _ hbusy⟩

/-! ### Starting and stopping the encoder (R178 to R181) -/

theorem startHistory_eq (s : State) : pairOf s.pins.a s.pins.b ++ pairOf s.pins.a s.pins.b = startHistory s := by
  unfold startHistory
  cases s.pins.a <;> cases s.pins.b <;> rfl

/-- ENC_INIT on the state the own phases left (R178). -/
theorem encInit_idleCycle (s : State) : encInit s (idleCycle s).enc = clearedEncoder s true (startHistory s) := by
  obtain ⟨ha, hb⟩ := ownPhases_levels s
  simp [encInit, encClear, clearedEncoder, idleDir, startHistory_eq, ha, hb]

/-- ENC_CLEAR and the stop on the state the own phases left (R179, R181). -/
theorem encClear_idleCycle (s : State) :
    encClear { (idleCycle s).enc with run := false } s.regs.quad = clearedEncoder s false 0#4 := by
  obtain ⟨ha, hb⟩ := ownPhases_levels s
  simp [encClear, clearedEncoder, idleDir, ha, hb]

theorem exec_encStart_of_pass {s : State} (h : checkEncStart s = none) :
    exec .cmdEncStart s = .next { idleCycle s with enc := clearedEncoder s true (startHistory s) } := by
  rw [exec_cmdEncStart, checkedWrite_performed _ h, writeCycle_withEnc, encInit_idleCycle]

theorem exec_encStop_of_pass {s : State} (h : s.mc.run = false) :
    exec .cmdEncStop s = .next { idleCycle s with enc := clearedEncoder s false 0#4 } := by
  rw [exec_cmdEncStop, checkedWrite_performed _ (by simp [checkEncStop, h]),
    writeCycle_withEnc (fun e => encClear { e with run := false } s.regs.quad), encClear_idleCycle]

/-- Settles O30: the four checks in their order, and ENC_INIT where all pass. -/
theorem encoderStart : Obligations.EncoderStart := by
  refine ⟨commandEncoding_of_command rfl, fun s => ⟨fun hrun => ?_, fun hrun hres => ?_, fun hrun hres hsper => ?_,
    fun hrun hres hsper hfault => ?_, fun hrun hres hsper hfault => ?_⟩⟩
  · exact checkedWrite_refused (code := .alreadyRunning) _ (by simp [checkEncStart, hrun])
  · exact checkedWrite_refused (code := .cfgResZero) _ (by simp [checkEncStart, hrun, hres])
  · exact checkedWrite_refused (code := .cfgSperZero) _ (by simp [checkEncStart, hrun, hres, hsper])
  · exact checkedWrite_refused (code := .hwFaultAtStart) _ (by simp [checkEncStart, hrun, hres, hsper, hfault])
  · exact exec_encStart_of_pass (checkEncStart_eq_none.mpr ⟨hrun, hres, hsper, hfault⟩)

/-- Settles O31: the one check, and ENC_CLEAR where it passes, over whatever the own phases left. -/
theorem encoderStop : Obligations.EncoderStop :=
  ⟨commandEncoding_of_command rfl, fun _ =>
    ⟨fun hrun => checkedWrite_refused (code := .encOwned) _ (by simp [checkEncStop, hrun]), exec_encStop_of_pass⟩⟩

/-- What MC_STOP leaves of the loop and the registers (R213, R215). -/
theorem writeCycle_loopClear (s : State) :
    (writeCycle Sticky.none loopClear s).mc = mcClear (idleCycle s).mc ∧
      (writeCycle Sticky.none loopClear s).regs = { (idleCycle s).regs with target := 0#32 } := by
  rw [writeCycle_eq]; exact ⟨rfl, rfl⟩

theorem clearedEncoder_congr {s t : State} (hpins : t.pins = s.pins) (hquad : t.regs.quad = s.regs.quad) (run : Bool)
    (h : BitVec 4) : clearedEncoder t run h = clearedEncoder s run h := by
  unfold clearedEncoder
  rw [hpins, hquad]

/-- With the loop stopped, a second ENC_STOP finds the encoder stopped and clear, and the levels as they were (R181). -/
theorem exec_encStop_twice {s t : State} (hm : s.mc.run = false) (ht : exec .cmdEncStop s = .next t) :
    exec .cmdEncStop t = .next t := by
  have hform := Host.Outcome.next.inj ((exec_encStop_of_pass hm).symm.trans ht)
  have hpins : t.pins = s.pins := hform ▸ idleCycle_pins s
  have hregs : t.regs = s.regs := hform ▸ idleCycle_regs_stopped hm
  have hmc : t.mc = s.mc := hform ▸ idleCycle_mc_stopped hm
  have hbus : t.bus = { rdata := 0#32, err := false } := hform ▸ idleCycle_bus s
  have henc : t.enc = clearedEncoder t false 0#4 := by
    rw [clearedEncoder_congr hpins (congrArg Regs.quad hregs), ← hform]
  have hoff : t.mc.run = false := by rw [hmc, hm]
  rw [exec_encStop_of_pass hoff, idleCycle_stopped (by rw [henc]; rfl) hoff, ← henc, ← hbus]

/-- A second MC_STOP finds the loop stopped and clear, and the target 0 (R215). -/
theorem exec_mcStop_twice {s t : State} (ht : exec .cmdMcStop s = .next t) :
    ∃ u, exec .cmdMcStop t = .next u ∧ u.mc = t.mc ∧ u.regs = t.regs := by
  obtain rfl := Host.Outcome.next.inj ht
  obtain ⟨hmc, hregs⟩ := writeCycle_loopClear s
  obtain ⟨hmc', hregs'⟩ := writeCycle_loopClear (writeCycle Sticky.none loopClear s)
  have hoff : (writeCycle Sticky.none loopClear s).mc.run = false := by rw [hmc]; rfl
  rw [idleCycle_mc_stopped hoff, hmc, mcClear_mcClear, ← hmc] at hmc'
  rw [idleCycle_regs_stopped hoff, hregs] at hregs'
  exact ⟨_, rfl, hmc', hregs'.trans hregs.symm⟩

/-- Settles O34: the first stop leaves its unit stopped and clear, and the own phases of the second one's cycle hold it. -/
theorem stopTwiceIsStopOnce : Obligations.StopTwiceIsStopOnce := fun _ _ => ⟨exec_encStop_twice, exec_mcStop_twice⟩

/-! ### The direction table (R156, R185) -/

/-- Settles O36: the entries of the list, in its order. -/
theorem directionTable_entries : Obligations.DirectionTable := by
  unfold Obligations.DirectionTable
  decide

/-- Settles O49, over the 16 pairs of pairs of levels. -/
theorem swappedChannelsMirrorTheTable : Obligations.SwappedChannelsMirrorTheTable := by
  unfold Obligations.SwappedChannelsMirrorTheTable
  decide

/-! ### Edges of a running encoder (R152 to R161) -/

theorem edges_eq (s : State) : edges s = edgeCount s := by
  unfold edges edgeCount edgeA edgeB
  cases s.pins.a <;> cases s.enc.aQ <;> cases s.regs.quad <;> cases s.pins.b <;> cases s.enc.bQ <;> rfl

theorem edgeHistory_eq (s : State) : edgeHistory s = nextHist s.enc.hist (pairOf s.pins.a s.pins.b) := by
  have hbit (b : Bool) : bit b = b.toNat := by cases b <;> rfl
  unfold edgeHistory
  rw [hbit, hbit, ← nextHist_toNat, BitVec.ofNat_toNat, BitVec.setWidth_eq]

theorem idleCycle_enc_running {s : State} (hrun : s.enc.run = true) :
    (idleCycle s).enc = { sampledEnc s with run := !s.pins.fault } := by
  rw [idleCycle_enc, ownPhases_enc_eq, if_pos hrun]

/-- What counts and turns in a running cycle is the edges' doing: the strobe and a fault leave it (R164, R182). -/
theorem idleCycle_enc_edges {s : State} (hrun : s.enc.run = true) :
    (idleCycle s).enc.count = (edgedEnc s).count ∧ (idleCycle s).enc.hist = (edgedEnc s).hist ∧
      (idleCycle s).enc.dirLive = (edgedEnc s).dirLive ∧ (idleCycle s).enc.lastNeg = (edgedEnc s).lastNeg := by
  rw [idleCycle_enc_running hrun]
  unfold sampledEnc
  split <;> exact ⟨rfl, rfl, rfl, rfl⟩

/-- The count grows by the edges of the cycle, modulo 2^32 (R160). -/
theorem edgedEnc_count_toNat (s : State) :
    (edgedEnc s).count.toNat = (s.enc.count.toNat + edgeCount s) % 2 ^ 32 := by
  have hcount : (edgedEnc s).count = s.enc.count + BitVec.ofNat 32 (edgeCount s) := by
    rw [edgedEnc_eq]
    split
    next h0 => simp [h0]
    next => split <;> rfl
  simp [hcount, BitVec.toNat_add]

theorem nextLastNeg_forward {d : Dir} {old : Bool} : d = .forward → nextLastNeg d old = false := by rintro rfl; rfl

theorem nextLastNeg_of_stop_or_invalid {d : Dir} {old : Bool} : d = .stop ∨ d = .invalid → nextLastNeg d old = old := by
  rintro (rfl | rfl) <;> rfl

/-- Settles O37: the cycle's edges, with and without any, in the terms of `edgedEnc`. -/
theorem quadratureEdges : Obligations.QuadratureEdges := by
  intro s hrun hquad t
  obtain ⟨hcount, hhist, hdir, hneg⟩ := idleCycle_enc_edges hrun
  rw [edges_eq, edgeHistory_eq]
  refine ⟨by rw [hcount, edgedEnc_count_toNat], fun h0 => ?_, fun hpos => ?_⟩
  · rw [hhist, hdir, hneg, edgedEnc_eq, if_pos h0]
    exact ⟨rfl, rfl, rfl⟩
  · rw [hhist, hdir, hneg, edgedEnc_eq, if_neg (Nat.ne_of_gt hpos), if_pos hquad]
    exact ⟨rfl, rfl, nextLastNeg_forward, nextLastNeg_backward _ _, nextLastNeg_of_stop_or_invalid⟩

/-- Settles O38: in single-channel mode the edges write the count alone, and channel B makes none. -/
theorem singleChannelEdges : Obligations.SingleChannelEdges := by
  intro s hrun hquad t
  obtain ⟨hcount, hhist, hdir, hneg⟩ := idleCycle_enc_edges hrun
  have hedges : edgeCount s = if s.pins.a = s.enc.aQ then 0 else 1 := by
    rw [← edges_eq]; simp [edges, hquad]
  have hframe : (edgedEnc s).hist = s.enc.hist ∧ (edgedEnc s).dirLive = s.enc.dirLive ∧
      (edgedEnc s).lastNeg = s.enc.lastNeg := by
    rw [edgedEnc_eq, hquad]
    split <;> exact ⟨rfl, rfl, rfl⟩
  obtain ⟨hhist', hdir', hneg'⟩ := hframe
  refine ⟨?_, hhist.trans hhist', hdir.trans hdir', hneg.trans hneg', ?_⟩
  · rw [hcount, edgedEnc_count_toNat, hedges]
  · rw [idleCycle_flags_eq]; simp [hquad]

/-- Settles O48: under the invariant the new history is the previous pair and the current one, whose table entry is said by its
two changes. -/
theorem grayStepsAreNeverInvalid : Obligations.GrayStepsAreNeverInvalid := by
  rintro s ⟨-, hlow, -⟩ hrun hquad hpos
  rw [edges_eq] at hpos
  have hdir : (idleCycle s).enc.dirLive = tableDir (pairOf s.enc.aQ s.enc.bQ ++ pairOf s.pins.a s.pins.b) := by
    obtain ⟨-, -, hdir, -⟩ := idleCycle_enc_edges hrun
    rw [hdir, edgedEnc_eq, if_neg (Nat.ne_of_gt hpos), if_pos hquad, ← nextHist_of_low (hlow hrun hquad)]
  have hchange : (s.enc.aQ, s.enc.bQ) ≠ (s.pins.a, s.pins.b) := by
    intro h
    obtain ⟨ha, hb⟩ := Prod.mk.inj h
    exact Nat.ne_of_gt hpos (edgeCount_eq_zero.mpr ⟨ha.symm, fun _ => hb.symm⟩)
  obtain ⟨hstop, hinvalid⟩ := tableDir_change _ _ _ _ hchange
  rw [hdir, ne_comm (a := s.pins.a), ne_comm (a := s.pins.b)]
  exact ⟨hstop, hinvalid⟩

/-! ### The sample counter and the publication (R162 to R165) -/

theorem idleCycle_enc_between_strobes {s : State} (hrun : s.enc.run = true)
    (h : s.enc.scnt.toNat + 1 ≠ s.regs.sper.toNat) :
    (idleCycle s).enc = { edgedEnc s with scnt := s.enc.scnt + 1#32, run := !s.pins.fault } := by
  rw [idleCycle_enc_running hrun, sampledEnc, if_neg h]

theorem idleCycle_enc_at_strobe {s : State} (hrun : s.enc.run = true) (h : s.enc.scnt.toNat + 1 = s.regs.sper.toNat) :
    (idleCycle s).enc =
      { edgedEnc s with
        run := !s.pins.fault
        pubCount := (edgedEnc s).count
        pubDir := (edgedEnc s).dirLive
        pubSpeed := speedMag s.params s.regs ((edgedEnc s).count - s.enc.base)
        pubNeg := publishedNeg s.regs.quad (edgedEnc s).dirLive (edgedEnc s).lastNeg
        base := (edgedEnc s).count
        scnt := 0#32 } := by
  rw [idleCycle_enc_running hrun, sampledEnc, if_pos h]

/-- Settles O39: without a strobe a running cycle writes the counter over what the edges left, and these touch none of the fields
named. -/
theorem noPublicationBetweenStrobes : Obligations.NoPublicationBetweenStrobes := by
  intro s hrun hlt t
  obtain ⟨-, hbase, -, hcount, hdir, hspeed, hneg, hsdir, hsspeed, hsneg, -, -⟩ := edgedEnc_frame s
  have ht : t = _ := idleCycle_enc_between_strobes hrun (Nat.ne_of_lt hlt)
  have hscnt : (s.enc.scnt + 1#32).toNat = s.enc.scnt.toNat + 1 :=
    BitVec.toNat_add_of_lt (by have := s.regs.sper.isLt; simp; omega)
  rw [ht]
  exact ⟨hscnt, hbase, hcount, hdir, hspeed, hneg, hsdir, hsspeed, hsneg⟩

/-- The published sign in words (R165). -/
theorem publishedNeg_eq (quad : Bool) (d : Dir) (lastNeg : Bool) :
    publishedNeg quad d lastNeg = decide (quad = true ∧ (d = .backward ∨ (d = .invalid ∧ lastNeg = true))) := by
  cases d <;> simp [publishedNeg]

theorem sper_ne_zero_of_strobe {s : State} (h : s.enc.scnt.toNat + 1 = s.regs.sper.toNat) : s.regs.sper ≠ 0#32 := by
  intro h0
  simp [h0] at h

/-- Settles O40: the strobe's state with the speed and the sign written out. -/
theorem publicationAtStrobe : Obligations.PublicationAtStrobe := by
  intro s hrun hstrobe hres t n d
  have ht : t.enc = _ := idleCycle_enc_at_strobe hrun hstrobe
  have hcount : t.enc.count = (edgedEnc s).count := by rw [ht]
  have hpub : t.flags.pub = true := by
    rw [show t.flags = _ from idleCycle_flags_eq s]; simp [hrun, hstrobe]
  have hspeed := speedMag_toNat s.params ((edgedEnc s).count - s.enc.base) (sper_ne_zero_of_strobe hstrobe) hres
  have hsign := publishedNeg_eq s.regs.quad (edgedEnc s).dirLive (edgedEnc s).lastNeg
  simp only [n, hcount]
  rw [ht]
  exact ⟨rfl, rfl, hpub, rfl, rfl, hspeed, hsign⟩

/-! ### The sticky flags (R43, R159, R164, R182, R209, R211) -/

/-- The control tick in the terms of the statements (R203 to R207). -/
theorem controlTick_pidSat (s : State) :
    (controlTick s).pidSat =
      decide (sat (errorRaw s) ≠ errorRaw s ∨ sat (integralRaw s) ≠ integralRaw s ∨ sat (outputRaw s) ≠ outputRaw s) := rfl

theorem controlTick_du (s : State) : (controlTick s).du = dutyRaw s := rfl

/-- Settles O42: each flag of the cycle, its event in the statement's terms. -/
theorem stickyFlagEvents : Obligations.StickyFlagEvents := by
  intro s t tick
  have ht : t = _ := idleCycle_flags_eq s
  rw [edges_eq, edgeHistory_eq, ht, controlTick_pidSat, controlTick_du]
  refine ⟨?pub, ?inv, ?encf, ?mcf, ?pidsat, ?dutysat⟩
  case pub | encf | mcf => simp [and_assoc]
  case inv => simp [Nat.pos_iff_ne_zero, and_assoc, and_left_comm]
  case pidsat | dutysat => simp [tick]

/-! ### The encoder fault (R182, R307) -/

/-- The state with another level of `enc_fault`. -/
def State.withFault (s : State) (f : Bool) : State := { s with pins := { s.pins with fault := f } }

/-- The encoder's phases do not look at the fault (R152 to R165). -/
theorem sampledEnc_withFault (s : State) (f : Bool) : sampledEnc (s.withFault f) = sampledEnc s := by
  unfold sampledEnc
  rw [edgedEnc_eq, edgedEnc_eq]
  rfl

/-- Settles O45: the fault phase after the phases of the same cycle, of which the loop's leaves nothing but the frequency. -/
theorem encoderFaultStopsUnits : Obligations.EncoderFaultStopsUnits := by
  intro s hrun hfault t
  have hflags : t.flags = _ := idleCycle_flags_eq s
  have hclean := idleCycle_enc_running (s := s.withFault false) hrun
  refine ⟨?enc, ?encf, ?cap, fun hm => ⟨?mcf, ?mc, ?regs⟩,
    fun hm => ⟨idleCycle_mc_stopped hm, idleCycle_regs_stopped hm, ?noMcf⟩⟩
  case enc =>
    show (idleCycle s).enc = { (idleCycle (s.withFault false)).enc with run := false }
    rw [idleCycle_enc_running hrun, hclean, sampledEnc_withFault, hfault]; rfl
  case encf => rw [hflags]; simp [hrun, hfault]
  case cap => rw [idleCycle_cap, captureAsync_ownPhases, hrun, hfault]; rfl
  case mcf => rw [hflags]; simp [hrun, hfault, hm]
  case mc => rw [idleCycle_mc, ownPhases_mc_eq, hrun, hfault, hm]; rfl
  case regs => rw [idleCycle_regs, ownPhases_regs, hrun, hfault, hm]; rfl
  case noMcf => rw [hflags]; simp [hm]

/-! ### When a running encoder publishes (R162, R357) -/

/-- One more cycle of a run that has not stopped. -/
theorem core_run_succ {M : Host.Core} {k : Nat} {s t : M.State} (h : M.run k s = .next t) : M.run (k + 1) s = M.step t := by
  induction k generalizing s with
  | zero =>
    obtain rfl : s = t := Host.Outcome.next.inj h
    simp only [Host.Core.run]
    cases M.step s <;> rfl
  | succ k ih =>
    rw [Host.Core.run] at h ⊢
    cases hstep : M.step s with
    | next s' => rw [hstep] at h; exact ih h
    | fault r => rw [hstep] at h; cases h
    | refused r => rw [hstep] at h; cases h

/-- A cycle without reset, transaction and fault. -/
def CycleIn.Quiet (c : CycleIn) : Prop := c.rst = false ∧ c.req = none ∧ c.pins.fault = false

/-- What `k` quiet cycles without a strobe leave of a running encoder: the counter counts, base and published fields hold. -/
structure CountedOn (k : Nat) (s t : State) : Prop where
  run : t.enc.run = true
  scnt : t.enc.scnt.toNat = s.enc.scnt.toNat + k
  base : t.enc.base = s.enc.base
  published : PublishedAgrees t.enc s.enc
  sper : t.regs.sper = s.regs.sper
  stim : t.stim = s.stim.drop k

theorem CountedOn.succ {k : Nat} {s t u : State} (h : CountedOn k s t) (h1 : CountedOn 1 t u) : CountedOn (k + 1) s u where
  run := h1.run
  scnt := by rw [h1.scnt, h.scnt, Nat.add_assoc]
  base := h1.base.trans h.base
  published := h1.published.trans h.published
  sper := h1.sper.trans h.sper
  stim := by rw [h1.stim, h.stim, List.drop_drop]

/-- The input of the cycle after `k` of them. -/
theorem CountedOn.stim_eq_cons {k : Nat} {s t : State} (h : CountedOn k s t) (hk : k < s.stim.length) :
    t.stim = s.stim[k] :: s.stim.drop (k + 1) := by
  rw [h.stim, List.drop_eq_getElem_cons]

theorem step_quiet_between_strobes {s : State} {c : CycleIn} {rest : List CycleIn} (hs : s.stim = c :: rest)
    (hc : c.Quiet) (hrun : s.enc.run = true) (hlt : s.enc.scnt.toNat + 1 < s.regs.sper.toNat) :
    ∃ t, step s = .next t ∧ CountedOn 1 s t := by
  obtain ⟨hscnt, hbase, hcount, hdir, hspeed, hneg, -⟩ :=
    noPublicationBetweenStrobes (s.withInputs c.pins rest) hrun hlt
  obtain ⟨hrst, hreq, hfault⟩ := hc
  obtain ⟨⟨-, -, hsper⟩, -⟩ := ownPhases_config (s.withInputs c.pins rest)
  refine ⟨_, step_of_no_req hs hrst hreq, ?_, hscnt, hbase, ⟨hcount, hdir, hspeed, hneg⟩, hsper, ?_⟩
  · simp [ownPhases_enc_run, hrun, hfault]
  · simp [hs]

theorem run_between_strobes {s : State} {k : Nat} (hrun : s.enc.run = true)
    (hlt : s.enc.scnt.toNat + k < s.regs.sper.toNat) (hlen : k ≤ s.stim.length) (hquiet : ∀ c ∈ s.stim, c.Quiet) :
    ∃ t, Host.Core.run core k s = .next t ∧ CountedOn k s t := by
  induction k with
  | zero => exact ⟨s, rfl, hrun, rfl, rfl, ⟨rfl, rfl, rfl, rfl⟩, rfl, rfl⟩
  | succ k ih =>
    obtain ⟨t, ht, hcounted⟩ := ih (by omega) (by omega)
    obtain ⟨u, hu, hone⟩ := step_quiet_between_strobes (hcounted.stim_eq_cons hlen) (hquiet _ (List.getElem_mem _))
      hcounted.run (by rw [hcounted.scnt, hcounted.sper]; omega)
    exact ⟨u, (core_run_succ ht).trans hu, hcounted.succ hone⟩

theorem step_quiet_at_strobe {s : State} {c : CycleIn} {rest : List CycleIn} (hs : s.stim = c :: rest) (hc : c.Quiet)
    (hrun : s.enc.run = true) (hstrobe : s.enc.scnt.toNat + 1 = s.regs.sper.toNat) :
    ∃ t, step s = .next t ∧ t.enc.scnt = 0#32 ∧ t.flags.pub = true ∧ t.enc.pubCount = t.enc.count ∧
      t.enc.base = t.enc.count ∧ t.enc.pubDir = t.enc.dirLive := by
  have henc := idleCycle_enc_at_strobe (s := s.withInputs c.pins rest) hrun hstrobe
  obtain ⟨hrst, hreq, -⟩ := hc
  refine ⟨_, step_of_no_req hs hrst hreq, ?_⟩
  rw [idleCycle_flags_eq, henc]
  simp [hrun, hstrobe]

/-- Settles O59: the counter counts on through the cycles before, by induction on their number, and the `n`-th is a strobe
cycle. -/
theorem publicationComesOnTime : Obligations.PublicationComesOnTime := by
  intro n s hrun hn hpos hlen hquiet
  have hbefore (k : Nat) (hk : k < n) : ∃ t, Host.Core.run core k s = .next t ∧ CountedOn k s t :=
    run_between_strobes hrun (by omega) (by omega) hquiet
  refine ⟨fun k hk => ?_, ?_⟩
  · obtain ⟨t, ht, h⟩ := hbefore k hk
    exact ⟨t, ht, h.scnt, h.base, h.published⟩
  · obtain ⟨m, rfl⟩ := Nat.exists_eq_add_one_of_ne_zero (Nat.ne_of_gt hpos)
    obtain ⟨t, ht, h⟩ := hbefore m m.lt_succ_self
    obtain ⟨u, hu, hpub⟩ := step_quiet_at_strobe (h.stim_eq_cons hlen) (hquiet _ (List.getElem_mem _)) h.run
      (by rw [h.scnt, h.sper]; omega)
    exact ⟨u, (core_run_succ ht).trans hu, hpub⟩

end Sys2Proof.Machine
end

section
/-! Proofs of the statements on the control loop: its reads and writes (R216 to R240), its start and stop (R212 to R215), the
control tick and the cycles without one (R200 to R211), what can change the direction pattern (R242), and when a running loop
ticks (R201, R314). -/

namespace Sys2Proof.Machine

open Sys2Proof.Claims

/-! ### Reads (R217 to R240) -/

theorem DirSel.code_toNat (d : DirSel) : d.code.toNat = patternCode d := by cases d <;> rfl

/-- The pattern on the port is that of `dirsel` (R35). -/
theorem dirOut_eq (s : State) : s.dirOut = selectedPattern s := by
  unfold State.dirOut selectedPattern
  cases s.mc.dirsel <;> rfl

/-- MC_PAT at the weights of R233. -/
theorem mcPatWord_eq (s : State) :
    mcPatWord s = BitVec.ofNat 32
      (s.regs.patFwd.toNat + 256 * s.regs.patBwd.toNat + 65536 * s.regs.patStop.toNat) := by
  apply eq_ofNat_of_toNat_eq
  rw [mcPatWord_toNat]
  omega

/-- MC_OUT at the weights of R239. -/
theorem mcOutWord_eq (s : State) :
    mcOutWord s = BitVec.ofNat 32
      (s.mc.pwmDuty.toNat + 131072 * bit s.mc.pendV + 262144 * patternCode s.mc.dirsel
        + 1048576 * (selectedPattern s).toNat) := by
  apply eq_ofNat_of_toNat_eq
  rw [mcOutWord_toNat, toNat_ofBool_eq_bit, DirSel.code_toNat, dirOut_eq]
  omega

/-- Settles O19: each read answers its register's value, MC_MIN_DUTY zero-extended and MC_PAT the sum of its bytes. -/
theorem readLoopConfiguration : Obligations.ReadLoopConfiguration := by
  refine ⟨readEncoding_of_reg .mcTarget, readEncoding_of_reg .mcKp, readEncoding_of_reg .mcKi, readEncoding_of_reg .mcKd,
    readEncoding_of_reg .mcMinDuty, readEncoding_of_reg .mcMaxSpeed, readEncoding_of_reg .mcPeriod,
    readEncoding_of_reg .mcPwmFreq, readEncoding_of_reg .mcPat,
    fun s => ⟨rfl, rfl, rfl, rfl, ?minDuty, rfl, rfl, rfl, ?pat⟩⟩
  case minDuty => rw [exec_rdMcMinDuty, readRegister_eq_readAnswer, regRead, BitVec.ofNat_toNat]
  case pat => rw [exec_rdMcPat, readRegister_eq_readAnswer, regRead, mcPatWord_eq]

/-- Settles O20: each read answers its register's value, the speed signed by `signedSpeed` and MC_OUT the sum of its fields. -/
theorem readLoopResults : Obligations.ReadLoopResults := by
  refine ⟨readEncoding_of_reg .mcSpeed, readEncoding_of_reg .mcPrevErr, readEncoding_of_reg .mcIntegral,
    readEncoding_of_reg .mcOutput, readEncoding_of_reg .mcDuty, readEncoding_of_reg .mcOut,
    readEncoding_of_reg .mcPwmFreqOut, fun s => ⟨?speed, rfl, rfl, rfl, rfl, ?out, rfl⟩⟩
  case speed => rw [exec_rdMcSpeed, readRegister_eq_readAnswer, regRead, u32_signedSpeed]
  case out => rw [exec_rdMcOut, readRegister_eq_readAnswer, regRead, mcOutWord_eq]

/-! ### Writes (R216, R218 to R232) -/

/-- Settles O23: the write has no check, and it stores over whatever the own phases left. -/
theorem writeTarget : Obligations.WriteTarget :=
  ⟨writeEncoding_of_reg (r := .mcTarget) fun _ => rfl,
    fun v s => congrArg Host.Outcome.next (writeCycle_withRegs (fun r => { r with target := v }) s)⟩

/-- A write to a register of the loop's configuration stores over the cycle without a transaction while the loop is stopped
(R46). -/
theorem loopWrite_stopped {s : State} (hrun : s.mc.run = false) (r : RegName) (g : Regs → Regs) :
    checkedWrite r (checkMcStopped s) (fun n => n.withRegs (g n.regs)) s =
      .next { idleCycle s with regs := g (idleCycle s).regs } := by
  rw [checkedWrite_performed _ (checkMcStopped_of_stopped hrun), writeCycle_withRegs]

/-- While the loop runs it is refused. -/
theorem loopWrite_running {s : State} (hrun : s.mc.run = true) (r : RegName) (f : State → State) :
    checkedWrite r (checkMcStopped s) f s = .next (errorAnswer s 0x04#8 r.addr) :=
  checkedWrite_refused f (checkMcStopped_of_run hrun)

/-- Settles O24: the one check of the three writes, and what each stores. -/
theorem writeGains : Obligations.WriteGains :=
  ⟨writeEncoding_of_reg (r := .mcKp) fun _ => rfl, writeEncoding_of_reg (r := .mcKi) fun _ => rfl,
    writeEncoding_of_reg (r := .mcKd) fun _ => rfl, fun v _ =>
    ⟨fun hrun => ⟨loopWrite_stopped hrun .mcKp fun r => { r with kp := v },
        loopWrite_stopped hrun .mcKi fun r => { r with ki := v }, loopWrite_stopped hrun .mcKd fun r => { r with kd := v }⟩,
      fun hrun => ⟨loopWrite_running hrun .mcKp _, loopWrite_running hrun .mcKi _, loopWrite_running hrun .mcKd _⟩⟩⟩

theorem minDutyOperand_toNat (v : Word) : (minDutyOperand v).toNat = min v.toNat 0x10000 := by
  unfold minDutyOperand
  rw [BitVec.toNat_ofNat]
  omega

/-- Settles O25: the one check of the four writes, and what each stores. -/
theorem writeLoopLimits : Obligations.WriteLoopLimits := by
  refine ⟨writeEncoding_of_reg (r := .mcMinDuty) fun _ => rfl, writeEncoding_of_reg (r := .mcMaxSpeed) fun _ => rfl,
    writeEncoding_of_reg (r := .mcPeriod) fun _ => rfl, writeEncoding_of_reg (r := .mcPwmFreq) fun _ => rfl,
    fun v s => ⟨fun hrun => ⟨⟨minDutyOperand v, minDutyOperand_toNat v, ?_⟩, ?_, ?_, ?_⟩, fun hrun => ⟨?_, ?_, ?_, ?_⟩⟩⟩
  · exact loopWrite_stopped hrun .mcMinDuty fun r => { r with minDuty := minDutyOperand v }
  · exact loopWrite_stopped hrun .mcMaxSpeed fun r => { r with maxSpeed := v }
  · exact loopWrite_stopped hrun .mcPeriod fun r => { r with period := v }
  · exact loopWrite_stopped hrun .mcPwmFreq fun r => { r with pwmFreq := v }
  · exact loopWrite_running hrun .mcMinDuty _
  · exact loopWrite_running hrun .mcMaxSpeed _
  · exact loopWrite_running hrun .mcPeriod _
  · exact loopWrite_running hrun .mcPwmFreq _

theorem patMask_getLsbD (p : Params) {i : Nat} (hi : i < 8) : (patMask p).getLsbD i = decide (i < p.nDir) := by
  rw [patMask, BitVec.getLsbD_ofNat, Nat.testBit_two_pow_sub_one, decide_eq_true hi, Bool.true_and]

/-- The bits of a pattern operand: those of the written byte below N_DIR (R232). -/
theorem patOperand_getLsbD (p : Params) (v : Word) (k : Nat) {i : Nat} (hi : i < 8) :
    (patOperand p v k).getLsbD i = (decide (i < p.nDir) && v.getLsbD (k + i)) := by
  rw [patOperand, BitVec.getLsbD_and, BitVec.getLsbD_extractLsb', patMask_getLsbD p hi, decide_eq_true hi, Bool.true_and,
    Bool.and_comm]

theorem writeCycle_writeMcPat (v : Word) (s : State) :
    writeCycle Sticky.none (writeMcPat v) s =
      { idleCycle s with
        regs := { (idleCycle s).regs with
          patFwd := patOperand (idleCycle s).params v 0
          patBwd := patOperand (idleCycle s).params v 8
          patStop := patOperand (idleCycle s).params v 16 } } := by
  rw [writeCycle_eq]; rfl

/-- Settles O26: the three operands of the write, bit by bit, and its one check. -/
theorem writePatterns : Obligations.WritePatterns := by
  refine ⟨writeEncoding_of_reg (r := .mcPat) fun _ => rfl, fun v s => ⟨fun hrun => ?_, fun hrun => ?_⟩⟩
  · refine ⟨patOperand s.params v 0, patOperand s.params v 8, patOperand s.params v 16, fun i hi => ?_, ?_⟩
    · simp only [patOperand_getLsbD _ _ _ hi, Nat.zero_add, and_self]
    · rw [exec_wrMcPat, checkedWrite_performed _ (checkMcStopped_of_stopped hrun), writeCycle_writeMcPat, idleCycle_params]
  · exact loopWrite_running hrun .mcPat _

/-! ### Starting and stopping the loop (R212 to R215) -/

/-- With the loop stopped and the encoder running or ready, the checks of MC_START are those on the loop's configuration and on
the fault (R214). -/
theorem checkMcStart_of_encoder_ready {s : State} (hrun : s.mc.run = false)
    (hcfg : s.enc.run = true ∨ (s.regs.res ≠ 0#16 ∧ s.regs.sper ≠ 0#32)) :
    checkMcStart s =
      if s.regs.period.toNat < 2 then some .cfgMcperSmall
      else if s.regs.maxSpeed = 0#32 then some .cfgMaxspdZero
      else if s.pins.fault then some .hwFaultAtStart
      else none := by
  obtain he | ⟨hres, hsper⟩ := hcfg
  · simp [checkMcStart, hrun, he]
  · simp [checkMcStart, hrun, hres, hsper]

theorem writeCycle_loopInit (s : State) :
    writeCycle Sticky.none (loopInit s) s =
      { idleCycle s with
        enc := if s.enc.run then (idleCycle s).enc else encInit s (idleCycle s).enc
        mc := mcInit s (idleCycle s).mc } := by
  rw [writeCycle_eq]
  unfold loopInit
  split <;> rfl

theorem exec_mcStart_of_pass {s : State} (h : checkMcStart s = none) :
    exec .cmdMcStart s = .next
      { idleCycle s with
        enc := if s.enc.run then (idleCycle s).enc else clearedEncoder s true (startHistory s)
        mc := { clearedLoop s.regs.pwmFreq with run := true, dirsel := .fwd, pwmDuty := s.mc.pwmDuty } } := by
  obtain ⟨hrun, -⟩ := checkMcStart_eq_none.mp h
  rw [exec_cmdMcStart, checkedWrite_performed _ h, writeCycle_loopInit, encInit_idleCycle, idleCycle_mc_stopped hrun]
  rfl

/-- Settles O32: the six checks in their order, and MC_INIT where all pass. -/
theorem loopStart : Obligations.LoopStart := by
  refine ⟨commandEncoding_of_command rfl, fun s => ⟨fun hrun => ?_, fun hrun he hres => ?_, fun hrun he hres hsper => ?_,
    fun hrun hcfg => ?_⟩⟩
  · exact checkedWrite_refused (code := .alreadyRunning) _ (by simp [checkMcStart, hrun])
  · exact checkedWrite_refused (code := .cfgResZero) _ (by simp [checkMcStart, hrun, he, hres])
  · exact checkedWrite_refused (code := .cfgSperZero) _ (by simp [checkMcStart, hrun, he, hres, hsper])
  have hcheck := checkMcStart_of_encoder_ready hrun hcfg
  refine ⟨fun hp => ?_, fun hp hspeed => ?_, fun hp hspeed hfault => ?_, fun hp hspeed hfault => ?_⟩
  · exact checkedWrite_refused (code := .cfgMcperSmall) _ (by simp [hcheck, hp])
  · exact checkedWrite_refused (code := .cfgMaxspdZero) _ (by simp [hcheck, Nat.not_lt.mpr hp, hspeed])
  · exact checkedWrite_refused (code := .hwFaultAtStart) _ (by simp [hcheck, Nat.not_lt.mpr hp, hspeed, hfault])
  · exact exec_mcStart_of_pass (checkMcStart_eq_none.mpr ⟨hrun, hcfg, hp, hspeed, hfault⟩)

theorem mcClear_idleCycle (s : State) : mcClear (idleCycle s).mc = clearedLoop s.mc.pwmFreqOut := by
  rw [idleCycle_mc, ← ownPhases_pwmFreqOut]; rfl

/-- Settles O33: MC_CLEAR over whatever the own phases left of the loop, which is the frequency alone. -/
theorem loopStop : Obligations.LoopStop := by
  refine ⟨commandEncoding_of_command rfl, fun s => ?_⟩
  rw [exec_cmdMcStop, writeCycle_eq, ← mcClear_idleCycle]
  rfl

/-! ### A running cycle of the loop (R200 to R211) -/

/-- The duty the port carries after a cycle of the running loop: the waiting one where there is one (R202). -/
def McState.nextDuty (m : McState) : Duty := if m.pendV then m.pendDuty else m.pwmDuty

theorem McState.nextDuty_of_no_wait {m : McState} (h : m.pendV = false) : m.nextDuty = m.pwmDuty := by
  simp [McState.nextDuty, h]

theorem applyPending_eq (s : State) : applyPending s s.mc = { s.mc with pwmDuty := s.mc.nextDuty, pendV := false } := by
  unfold applyPending McState.nextDuty
  split
  next => rfl
  next h => rw [← Bool.eq_false_of_not_eq_true h]

/-- A counter below the period counts modulo the period (R201). -/
theorem wrappedCount_toNat {m p : Word} (h : m.toNat < p.toNat) :
    (if m.toNat + 1 = p.toNat then 0#32 else m + 1#32).toNat = (m.toNat + 1) % p.toNat := by
  split
  next hwrap => rw [hwrap, Nat.mod_self]; rfl
  next => rw [Nat.mod_eq_of_lt (by omega)]; exact BitVec.toNat_add_of_lt (by have := p.isLt; simp; omega)

theorem nextCount_eq {m p : Word} (h : m.toNat < p.toNat) :
    BitVec.ofNat 32 (modulo (m.toNat + 1) p.toNat) = if m.toNat + 1 = p.toNat then 0#32 else m + 1#32 := by
  rw [modulo_of_pos _ _ (by omega)]
  exact (eq_ofNat_of_toNat_eq (wrappedCount_toNat h)).symm

/-- What a tick leaves of the loop's state, in the terms of the statements (R203 to R211). -/
def tickedLoop (s : State) : McState :=
  { s.mc with
    mcnt := 1#32
    prevErr := u32 (sat (errorRaw s))
    integ := u32 (sat (integralRaw s))
    out := u32 (sat (outputRaw s))
    duty := u32 (sat (dutyRaw s))
    dirsel := nextDirsel (dutyRaw s) (measured s) s.mc.dirsel
    pwmDuty := s.mc.nextDuty
    pendV := true
    pendDuty := pwmOf (dutyRaw s) }

theorem noFault_iff {s : State} : noFault s ↔ ¬ (s.enc.run && s.pins.fault) = true := by
  unfold noFault
  cases s.enc.run <;> simp

theorem idleCycle_mc_at_tick {s : State} (hrun : s.mc.run = true) (h0 : s.mc.mcnt = 0#32)
    (hperiod : 2 ≤ s.regs.period.toNat) (hf : noFault s) : (idleCycle s).mc = tickedLoop s := by
  have hcount : BitVec.ofNat 32 (modulo (s.mc.mcnt.toNat + 1) s.regs.period.toNat) = 1#32 := by
    have hzero : s.mc.mcnt.toNat = 0 := congrArg BitVec.toNat h0
    rw [nextCount_eq (by omega), if_neg (by omega), h0]
    rfl
  rw [idleCycle_mc, ownPhases_mc_eq, if_pos hrun, if_neg (noFault_iff.mp hf), if_pos h0, applyPending_eq, hcount]
  rfl

/-- Settles O43: the tick's state, whose four results are saturated and so stored exactly. -/
theorem controlTick_results : Obligations.ControlTick := by
  intro s hrun h0 hperiod hf t
  have ht : t = tickedLoop s := idleCycle_mc_at_tick hrun h0 hperiod hf
  rw [ht]
  exact ⟨hrun, rfl, toInt_u32_sat32 _, toInt_u32_sat32 _, toInt_u32_sat32 _, toInt_u32_sat32 _, rfl, rfl, pwmOf_toNat _,
    rfl, rfl⟩

/-- Settles O44: the counter and the waiting duty are all that a cycle without a tick writes. -/
theorem cycleWithoutTick : Obligations.CycleWithoutTick := by
  intro s hrun h0 hlt hf
  rw [idleCycle_mc, ownPhases_mc_eq, if_pos hrun, if_neg (noFault_iff.mp hf), if_neg h0, applyPending_eq,
    nextCount_eq hlt]
  rfl

/-! ### What changes the direction pattern (R210, R242) -/

theorem nextDirsel_of_not_opposite {du cur : Int} (h : du.sign * cur.sign ≠ -1) (old : DirSel) :
    nextDirsel du cur old = old := if_neg h

/-- The own phases change the pattern in a tick with opposite signs and in a fault stop alone. -/
theorem ownPhases_dirsel_cases (s : State) :
    (ownPhases s).n.mc.dirsel = s.mc.dirsel ∨
      (s.mc.run = true ∧ s.mc.mcnt = 0#32 ∧ (dutyRaw s).sign * (measured s).sign = -1) ∨
      (s.enc.run = true ∧ s.mc.run = true ∧ s.pins.fault = true) := by
  rw [ownPhases_dirsel]
  split
  next hstop => exact .inr (.inr (by simpa [and_comm, and_assoc, and_left_comm] using hstop))
  next =>
    split
    next htick =>
      by_cases hsign : (dutyRaw s).sign * (measured s).sign = -1
      · exact .inr (.inl (by simpa [hsign] using htick))
      · exact .inl (nextDirsel_of_not_opposite hsign _)
    next => exact .inl rfl

/-- The instructions that can change the loop's state; all others leave it. -/
theorem effect_mc_cases (s : State) (i : Instr) (n : State) :
    (effect s i n).mc = n.mc ∨ i = .cmdMcStart ∨ i = .cmdMcStop := by
  by_contra! hno
  obtain ⟨hmc, hi⟩ := hno
  exact hmc (effect_mc s n hi)

/-- Settles O54: the own phases change the pattern by a tick or a fault stop, and of the instructions only the loop's start and
stop touch its state. -/
theorem patternChangesOnly : Obligations.PatternChangesOnly := by
  intro s t c rest hs h hne
  by_cases hn : nextResets s
  · exact .inr (.inr (.inl hn))
  obtain ⟨c', rest', hs', hstep⟩ := step_ownPhases_or_performed h hn
  obtain ⟨rfl, rfl⟩ := List.cons.inj (hs.symm.trans hs')
  have hown (hmc : t.mc = (ownPhases (s.withInputs c.pins rest)).n.mc) :=
    (ownPhases_dirsel_cases (s.withInputs c.pins rest)).resolve_left (hmc ▸ hne)
  obtain ⟨-, hmc, -⟩ | ⟨w, i, hw, hd, -, rfl⟩ := hstep
  · exact (hown hmc).imp_right .inl
  obtain hmc | rfl | rfl := effect_mc_cases (s.withInputs c.pins rest) i (ownPhases (s.withInputs c.pins rest)).n
  · exact (hown hmc).imp_right .inl
  · obtain rfl := command_word hd rfl
    exact .inr (.inr (.inr (.inl hw)))
  · obtain rfl := command_word hd rfl
    exact .inr (.inr (.inr (.inr hw)))

/-! ### When a running loop ticks (R201, R202, R314) -/

theorem idleCycle_regs_of_noFault {s : State} (hf : noFault s) : (idleCycle s).regs = s.regs := by
  rw [idleCycle_regs, ownPhases_regs, if_neg]
  rw [Bool.and_eq_true]
  exact fun h => noFault_iff.mp hf h.1

/-- The same results of the last tick, and the same pattern. -/
def ResultsAgree (m m' : McState) : Prop :=
  m.prevErr = m'.prevErr ∧ m.integ = m'.integ ∧ m.out = m'.out ∧ m.duty = m'.duty ∧ m.dirsel = m'.dirsel

theorem ResultsAgree.trans {m m' m'' : McState} (h : ResultsAgree m m') (h' : ResultsAgree m' m'') :
    ResultsAgree m m'' := by
  obtain ⟨herr, hinteg, hout, hduty, hsel⟩ := h
  obtain ⟨herr', hinteg', hout', hduty', hsel'⟩ := h'
  exact ⟨herr.trans herr', hinteg.trans hinteg', hout.trans hout', hduty.trans hduty', hsel.trans hsel'⟩

/-- What `k` quiet cycles without a tick leave of a running loop: the counter counts modulo P, the results hold, and a waiting
duty no longer waits after the first. -/
structure HeldOn (k : Nat) (s t : State) : Prop where
  run : t.mc.run = true
  mcnt : t.mc.mcnt.toNat = (s.mc.mcnt.toNat + k) % s.regs.period.toNat
  results : ResultsAgree t.mc s.mc
  nextDuty : t.mc.nextDuty = s.mc.nextDuty
  applied : 0 < k → t.mc.pendV = false
  period : t.regs.period = s.regs.period
  stim : t.stim = s.stim.drop k

theorem HeldOn.succ {k : Nat} {s t u : State} (h : HeldOn k s t) (h1 : HeldOn 1 t u) : HeldOn (k + 1) s u where
  run := h1.run
  mcnt := by rw [h1.mcnt, h.mcnt, h.period, Nat.mod_add_mod, Nat.add_assoc]
  results := h1.results.trans h.results
  nextDuty := h1.nextDuty.trans h.nextDuty
  applied := fun _ => h1.applied Nat.one_pos
  period := h1.period.trans h.period
  stim := by rw [h1.stim, h.stim, List.drop_drop]

/-- The input of the cycle after `k` of them. -/
theorem HeldOn.stim_eq_cons {k : Nat} {s t : State} (h : HeldOn k s t) (hk : k < s.stim.length) :
    t.stim = s.stim[k] :: s.stim.drop (k + 1) := by
  rw [h.stim, List.drop_eq_getElem_cons]

theorem HeldOn.pwmDuty {k : Nat} {s t : State} (h : HeldOn k s t) (hk : 0 < k) : t.mc.pwmDuty = s.mc.nextDuty := by
  rw [← h.nextDuty, McState.nextDuty_of_no_wait (h.applied hk)]

theorem step_quiet_without_tick {s : State} {c : CycleIn} {rest : List CycleIn} (hs : s.stim = c :: rest) (hc : c.Quiet)
    (hrun : s.mc.run = true) (h0 : s.mc.mcnt ≠ 0#32) (hlt : s.mc.mcnt.toNat < s.regs.period.toNat) :
    ∃ t, step s = .next t ∧ HeldOn 1 s t := by
  obtain ⟨hrst, hreq, hfault⟩ := hc
  have hf : noFault (s.withInputs c.pins rest) := .inr hfault
  have hmc := cycleWithoutTick (s.withInputs c.pins rest) hrun h0 hlt hf
  have hregs := idleCycle_regs_of_noFault hf
  refine ⟨_, step_of_no_req hs hrst hreq, ?_⟩
  exact
    { run := by rw [hmc]; exact hrun
      mcnt := by rw [hmc]; exact wrappedCount_toNat hlt
      results := by rw [hmc]; exact ⟨rfl, rfl, rfl, rfl, rfl⟩
      nextDuty := by rw [hmc]; rfl
      applied := fun _ => by rw [hmc]
      period := by rw [hregs]; rfl
      stim := by simp [hs] }

theorem run_until_tick {s : State} {k : Nat} (hrun : s.mc.run = true) (h0 : s.mc.mcnt ≠ 0#32)
    (hlt : s.mc.mcnt.toNat < s.regs.period.toNat) (hk : s.mc.mcnt.toNat + k ≤ s.regs.period.toNat)
    (hlen : k ≤ s.stim.length) (hquiet : ∀ c ∈ s.stim, c.Quiet) :
    ∃ t, Host.Core.run core k s = .next t ∧ HeldOn k s t := by
  induction k with
  | zero => exact ⟨s, rfl, hrun, (Nat.mod_eq_of_lt hlt).symm, ⟨rfl, rfl, rfl, rfl, rfl⟩, rfl, nofun, rfl, rfl⟩
  | succ k ih =>
    obtain ⟨t, ht, hheld⟩ := ih (by omega) (by omega)
    have hmcnt : t.mc.mcnt.toNat = s.mc.mcnt.toNat + k := hheld.mcnt.trans (Nat.mod_eq_of_lt (by omega))
    have hpos : s.mc.mcnt.toNat ≠ 0 := fun h => h0 (BitVec.eq_of_toNat_eq h)
    obtain ⟨u, hu, hone⟩ := step_quiet_without_tick (hheld.stim_eq_cons hlen) (hquiet _ (List.getElem_mem _)) hheld.run
      (fun h => by rw [h] at hmcnt; simp at hmcnt; omega) (by rw [hmcnt, hheld.period]; omega)
    exact ⟨u, (core_run_succ ht).trans hu, hheld.succ hone⟩

/-- Settles O60: the cycles before the tick hold the results, by induction on their number. -/
theorem ticksComeOnTime : Obligations.TicksComeOnTime := by
  intro n s hrun h0 hn hpos hlen hquiet k hk
  obtain ⟨t, ht, h⟩ := run_until_tick (k := k) hrun h0 (by omega) (by omega) (by omega) hquiet
  obtain ⟨herr, hinteg, hout, hduty, hsel⟩ := h.results
  exact ⟨t, ht, h.mcnt, h.run, herr, hinteg, hout, hduty, hsel, fun hk => ⟨h.applied hk, h.pwmDuty hk⟩⟩

theorem step_quiet_at_tick {s : State} {c : CycleIn} {rest : List CycleIn} (hs : s.stim = c :: rest) (hc : c.Quiet)
    (hrun : s.mc.run = true) (h0 : s.mc.mcnt = 0#32) (hperiod : 2 ≤ s.regs.period.toNat) :
    ∃ t, step s = .next t ∧ t.mc = tickedLoop s ∧ t.regs = s.regs ∧ t.stim = rest := by
  obtain ⟨hrst, hreq, hfault⟩ := hc
  have hf : noFault (s.withInputs c.pins rest) := .inr hfault
  exact ⟨_, step_of_no_req hs hrst hreq, idleCycle_mc_at_tick hrun h0 hperiod hf, idleCycle_regs_of_noFault hf,
    idleCycle_stim _⟩

/-- Settles O58: the tick leaves its duty waiting, and the cycle after it, which is no tick, puts that on the port. -/
theorem patternOneCycleBeforeDuty : Obligations.PatternOneCycleBeforeDuty := by
  intro s c1 c2 rest hs hr1 hr2 hq1 hq2 hf1 hf2 hrun h0 hpend hperiod
  obtain ⟨t, ht, hmc, hregs, hstim⟩ := step_quiet_at_tick hs ⟨hr1, hq1, hf1⟩ hrun h0 hperiod
  have hone : t.mc.mcnt = 1#32 := by rw [hmc]; rfl
  obtain ⟨u, hu, hheld⟩ := step_quiet_without_tick hstim ⟨hr2, hq2, hf2⟩ (by rw [hmc]; exact hrun)
    (by rw [hone]; decide) (by rw [hone, hregs]; exact hperiod)
  obtain ⟨-, -, -, -, hsel⟩ := hheld.results
  refine ⟨t, u, ht, hu, ?_, ?_, hsel, by rw [hmc]; rfl⟩
  · show t.mc.pwmDuty = s.mc.pwmDuty
    rw [hmc, ← McState.nextDuty_of_no_wait hpend]
    rfl
  · show u.mc.pwmDuty.toNat = _
    rw [hheld.pwmDuty Nat.one_pos, hmc]
    exact pwmOf_toNat _

end Sys2Proof.Machine
end

section
/-! Proofs of the statements on the exceptions: the error of a transaction is the one CHECK finds (R303, R304), the first error is
kept (R306, R310), an asynchronous error comes before a bus error of its cycle (R305), and no operation reads the record (R309). -/

namespace Sys2Proof.Machine

open Sys2Proof.Claims

/-! ### The procedure CHECK and the decoder (R304) -/

/-- The error of a transaction as the model finds it: the decoder's, or that of the decoded instruction's checks. -/
def refusal (s : State) (w : BusWord) : Option ErrCode :=
  match decode w with
  | .error e => some e
  | .ok i => checks s i

/-- What a write of `v` to CMD is refused by (R304 lines 8 to 10). -/
def commandCheck (s : State) (v : Word) : Option ErrCode :=
  if 256 ≤ v.toNat ∨ 7 ≤ v.toNat % 256 then some .illegalCmd
  else if v = 1#32 then checkEncStart s
  else if v = 2#32 then checkEncStop s
  else if v = 3#32 then checkMcStart s
  else none

/-- What a write of `v` to a register is refused by, by the register's access type (R46, R304 lines 4 to 10). -/
def accessCheck (s : State) (v : Word) : Access → Option ErrCode
  | .ro => some .roWrite
  | .rwES => checkEncStopped s
  | .rwMS => checkMcStopped s
  | .wo => commandCheck s v
  | .w1c | .rw => none

theorem checks_readOf (s : State) (r : RegName) : checks s (readOf r) = none := by cases r <;> rfl

section Check

variable {s : State} {w : BusWord} {r : RegName}

theorem refusal_of_decode_error {e : ErrCode} (h : decode w = .error e) : refusal s w = some e := by
  simp [refusal, h]

theorem refusal_of_decode_ok {i : Instr} (h : decode w = .ok i) : refusal s w = checks s i := by
  simp [refusal, h]

theorem hostCheck_unaligned (h : (busAddr w).toNat % 4 ≠ 0) : hostCheck s w = some .unaligned := if_pos h

theorem hostCheck_unmapped (halign : (busAddr w).toNat % 4 = 0)
    (h : (0x30 ≤ (busAddr w).toNat ∧ (busAddr w).toNat ≤ 0x3C) ∨ 0x80 ≤ (busAddr w).toNat) :
    hostCheck s w = some .unmapped := by
  rw [hostCheck, if_neg (not_not.mpr halign), if_pos h]

theorem hostCheck_read (haddr : busAddr w = r.addr) (hwe : busWe w = false) : hostCheck s w = none := by
  cases r <;> simp [hostCheck, haddr, hwe, RegName.addr]

theorem hostCheck_cmd (haddr : busAddr w = RegName.cmd.addr) (hwe : busWe w = true) :
    hostCheck s w = commandCheck s (busData w) := by
  simp [hostCheck, haddr, hwe, RegName.addr, commandCheck, checkEncStart, checkEncStop, checkMcStart, ← BitVec.toNat_inj]

theorem hostCheck_write (haddr : busAddr w = r.addr) (hwe : busWe w = true) :
    hostCheck s w = accessCheck s (busData w) r.access := by
  cases r with
  | cmd => exact hostCheck_cmd haddr hwe
  | _ => simp [hostCheck, haddr, hwe, RegName.addr, RegName.access, accessCheck, checkEncStopped, checkMcStopped]

theorem checks_of_commandOf {v : Word} {i : Instr} (h : commandOf v = .ok i) : checks s i = commandCheck s v := by
  have hf : fieldsOf i = (true, .cmd, v) := fieldsOf_of_commandOf h
  cases i with
  | cmdNop | cmdEncStart | cmdEncStop | cmdMcStart | cmdMcStop | cmdClrErr | cmdSoftReset => cases hf; rfl
  | _ => cases hf

theorem refusal_cmd (haddr : busAddr w = RegName.cmd.addr) (hwe : busWe w = true) :
    refusal s w = commandCheck s (busData w) := by
  have hd : decode w = commandOf (busData w) := decode_write haddr hwe
  by_cases hv : 256 ≤ (busData w).toNat ∨ 7 ≤ (busData w).toNat % 256
  · rw [refusal_of_decode_error (hd.trans (commandOf_illegal hv)), commandCheck, if_pos hv]
  · obtain ⟨i, hi⟩ := commandOf_legal (v := busData w) (by omega)
    rw [refusal_of_decode_ok (hd.trans hi), checks_of_commandOf hi]

theorem refusal_write (haddr : busAddr w = r.addr) (hwe : busWe w = true) :
    refusal s w = accessCheck s (busData w) r.access := by
  have hd := decode_write haddr hwe
  cases r with
  | cmd => exact refusal_cmd haddr hwe
  | _ => rw [refusal, hd]; rfl

end Check

/-- CHECK, which goes by addresses, finds what the model does, which goes by the decoded instruction. -/
theorem hostCheck_eq_refusal (s : State) (w : BusWord) : hostCheck s w = refusal s w := by
  by_cases halign : (busAddr w).toNat % 4 = 0
  case neg => rw [hostCheck_unaligned halign, refusal_of_decode_error (decode_unaligned halign)]
  by_cases hout : (0x30 ≤ (busAddr w).toNat ∧ (busAddr w).toNat ≤ 0x3C) ∨ 0x80 ≤ (busAddr w).toNat
  · rw [hostCheck_unmapped halign hout, refusal_of_decode_error (decode_unmapped halign (RegName.ofAddr_eq_none hout))]
  obtain ⟨r, haddr⟩ := RegName.exists_addr_eq halign (by omega) (by omega)
  cases hwe : busWe w with
  | true => rw [hostCheck_write haddr hwe, refusal_write haddr hwe]
  | false => rw [hostCheck_read haddr hwe, refusal_of_decode_ok (decode_read haddr hwe), checks_readOf]

/-! ### A transaction by its error (R303) -/

section Transaction

variable {s : State} {c : CycleIn} {rest : List CycleIn} {w : BusWord}

theorem fieldsOf_addr_of_decode {i : Instr} (h : decode w = .ok i) : (fieldsOf i).2.1.addr = busAddr w := by
  obtain ⟨r, haddr, ⟨-, rfl⟩ | ⟨-, hw⟩⟩ := decode_ok_cases h
  · rw [fieldsOf_readOf, haddr]
  · rw [fieldsOf_of_writeOf hw, haddr]

theorem step_of_refusal {code : ErrCode} (hs : s.stim = c :: rest) (hr : c.rst = false) (hq : c.req = some w)
    (h : refusal (s.withInputs c.pins rest) w = some code) :
    step s = .next (busErrorCycle code (busAddr w) (s.withInputs c.pins rest)) := by
  cases hd : decode w with
  | error e =>
    obtain rfl : e = code := by simpa [refusal_of_decode_error hd] using h
    exact step_of_decode_error hs hr hq hd
  | ok i =>
    rw [refusal_of_decode_ok hd] at h
    have hi : i ≠ .cmdSoftReset := by rintro rfl; cases h
    rw [step_of_decode_ok hs hr hq hd, exec_eq i _ hi, h, fieldsOf_addr_of_decode hd]

theorem exec_of_pass {i : Instr} (h : checks s i = none) : ∃ t, exec i s = .next t ∧ t.bus.err = false := by
  by_cases hi : i = .cmdSoftReset
  · exact hi ▸ ⟨resetBlock s, exec_cmdSoftReset s, rfl⟩
  · exact ⟨performed s i, by rw [exec_eq i s hi, h], rfl⟩

theorem step_of_pass (hs : s.stim = c :: rest) (hr : c.rst = false) (hq : c.req = some w)
    (h : refusal (s.withInputs c.pins rest) w = none) : ∃ t, step s = .next t ∧ t.bus.err = false := by
  cases hd : decode w with
  | error e => simp [refusal_of_decode_error hd] at h
  | ok i =>
    rw [step_of_decode_ok hs hr hq hd]
    exact exec_of_pass (by rwa [refusal_of_decode_ok hd] at h)

end Transaction

/-- Settles O7: CHECK finds the model's error, and a refused transaction is answered by `busErrorCycle`, a passed one without
error. -/
theorem transactionErrorsFollowCheck : Obligations.TransactionErrorsFollowCheck := by
  intro s c rest w hs hr hq s1
  rw [hostCheck_eq_refusal]
  exact ⟨fun code h => step_of_refusal hs hr hq h, step_of_pass hs hr hq⟩

/-! ### The record keeps the first error (R306, R310) -/

/-- Where `c` records an error, `c'` records the same, and with OVF if `c` has it. -/
def ErrCapture.KeptBy (c c' : ErrCapture) : Prop :=
  c.err = true → c'.err = true ∧ c'.code = c.code ∧ c'.addr = c.addr ∧ (c.ovf = true → c'.ovf = true)

theorem ErrCapture.KeptBy.refl (c : ErrCapture) : c.KeptBy c := fun herr => ⟨herr, rfl, rfl, id⟩

theorem ErrCapture.KeptBy.trans {c c' c'' : ErrCapture} (h : c.KeptBy c') (h' : c'.KeptBy c'') : c.KeptBy c'' := by
  intro herr
  obtain ⟨herr', hcode, haddr, hovf⟩ := h herr
  obtain ⟨herr'', hcode', haddr', hovf'⟩ := h' herr'
  exact ⟨herr'', hcode'.trans hcode, haddr'.trans haddr, hovf' ∘ hovf⟩

theorem keptBy_capture (c : ErrCapture) (code : ErrCode) (a : Addr) : c.KeptBy (capture c code a) := by
  intro herr
  rw [capture_of_err herr]
  exact ⟨herr, rfl, rfl, fun _ => rfl⟩

theorem keptBy_captureAsync (c : ErrCapture) (aerr : Option ErrCode) : c.KeptBy (captureAsync aerr c) := by
  cases aerr with
  | none => exact .refl c
  | some e => exact keptBy_capture c e 0#8

theorem idleCycle_keeps_error (s : State) : s.cap.KeptBy (idleCycle s).cap := by
  rw [idleCycle_cap]
  exact keptBy_captureAsync _ _

theorem busErrorCycle_keeps_error (code : ErrCode) (a : Addr) (s : State) : s.cap.KeptBy (busErrorCycle code a s).cap :=
  (idleCycle_keeps_error s).trans (keptBy_capture _ code a)

theorem performed_keeps_error (s : State) {i : Instr} (hi : i ≠ .cmdClrErr) : s.cap.KeptBy (performed s i).cap := by
  rw [performed_cap, effect_cap s hi, ownPhases_cap]
  exact keptBy_captureAsync _ _

/-- Settles O50, over the forms a step can have: each but the resets captures over the record it finds, and of the instructions
CLR_ERR alone, whose word is the one named, empties it. -/
theorem firstErrorIsKept : Obligations.FirstErrorIsKept := by
  intro s t herr hstep hreset hclr
  obtain ⟨c, rest, hs, hform⟩ := step_form hstep
  obtain ⟨hr | ⟨hr, w, hq, hd⟩, -⟩ | ⟨-, -, rfl⟩ | ⟨-, w, code, -, rfl, -⟩ | ⟨hr, w, i, hq, hd, -, -, rfl⟩ := hform
  · exact absurd (.inl ⟨c, rest, hs, hr⟩) hreset
  · exact absurd (nextResets_of_softReset hs hr hq hd) hreset
  · exact idleCycle_keeps_error (s.withInputs c.pins rest) herr
  · exact busErrorCycle_keeps_error code (busAddr w) (s.withInputs c.pins rest) herr
  · refine performed_keeps_error (s.withInputs c.pins rest) ?_ herr
    rintro rfl
    have hw : w = 0x10400000005#41 := command_word hd rfl
    exact hclr ⟨c, rest, hs, hr, hw ▸ hq⟩

/-! ### An asynchronous error and a bus error of one cycle (R305) -/

/-- With the record empty, the encoder fault is captured in the cycle's own phases, and the bus error after it sets OVF. -/
theorem busErrorCycle_cap_of_fault {s : State} (hcap : s.cap = ErrCapture.none) (hrun : s.enc.run = true)
    (hfault : s.pins.fault = true) (code : ErrCode) (a : Addr) :
    (busErrorCycle code a s).cap = { err := true, code := ErrCode.encHwFault.code, addr := 0#8, ovf := true } := by
  have hidle : (idleCycle s).cap = { err := true, code := ErrCode.encHwFault.code, addr := 0#8, ovf := false } := by
    rw [idleCycle_cap, captureAsync_ownPhases, hrun, hfault, hcap]
    rfl
  rw [busErrorCycle_eq, hidle]
  rfl

/-- Settles O51: CHECK's refusal is the step's, whose capture finds that of the encoder fault. -/
theorem asynchronousErrorFirst : Obligations.AsynchronousErrorFirst := by
  intro s c rest w code hs hr hq hcap hrun hfault hcheck
  rw [hostCheck_eq_refusal] at hcheck
  exact ⟨_, step_of_refusal hs hr hq hcheck, rfl,
    busErrorCycle_cap_of_fault (s := s.withInputs c.pins rest) hcap hrun hfault code (busAddr w)⟩

/-! ### No operation reads the record (R309) -/

section Record

variable (s : State) (k : ErrCapture)

/-- The encoder's phases do not look at the record (R152 to R165). -/
theorem sampledEnc_withCap : sampledEnc (s.withCap k) = sampledEnc s := by
  unfold sampledEnc
  rw [edgedEnc_eq, edgedEnc_eq]
  rfl

/-- The own phases carry the record along: none of them reads it. -/
theorem ownPhases_withCap_n : (ownPhases (s.withCap k)).n = (ownPhases s).n.withCap k := by
  apply State.eq_of_fields
  case he => rw [State.withCap_enc, ownPhases_enc_eq, ownPhases_enc_eq, sampledEnc_withCap]; rfl
  case hm => rw [State.withCap_mc, ownPhases_mc_eq, ownPhases_mc_eq]; rfl
  case hr => rw [State.withCap_regs, ownPhases_regs, ownPhases_regs]; rfl
  case hp | hf | hc | hb | hi | hs => simp

theorem ownPhases_withCap_set : (ownPhases (s.withCap k)).set = (ownPhases s).set := by
  rw [ownPhases_set_eq, ownPhases_set_eq]
  rfl

/-- No check reads the record. -/
theorem checks_withCap (i : Instr) : checks (s.withCap k) i = checks s i := by cases i <;> rfl

/-- No effect reads the record: it leaves the record it finds, or an empty one. -/
theorem effect_withCap (i : Instr) (n : State) :
    ∃ k', effect (s.withCap k) i (n.withCap k) = (effect s i n).withCap k' := by
  cases i with
  | cmdClrErr => exact ⟨ErrCapture.none, rfl⟩
  | cmdMcStart =>
    refine ⟨k, ?_⟩
    show loopInit (s.withCap k) (n.withCap k) = (loopInit s n).withCap k
    unfold loopInit
    cases hrun : s.enc.run <;> simp [hrun] <;> rfl
  | _ => exact ⟨k, rfl⟩

end Record

/-- The same state but for the record and the data of the response (R309). -/
def SameButRecord (u t : State) : Prop := u.bus.err = t.bus.err ∧ { u with cap := t.cap, bus := t.bus } = t

theorem sameButRecord_resetBlock (s : State) (k : ErrCapture) :
    SameButRecord (resetBlock (s.withCap k)) (resetBlock s) := ⟨rfl, rfl⟩

theorem sameButRecord_idleCycle (s : State) (k : ErrCapture) : SameButRecord (idleCycle (s.withCap k)) (idleCycle s) := by
  refine ⟨by simp, ?_⟩
  apply State.eq_of_fields
  case he | hm | hr => simp [ownPhases_withCap_n]
  case hf => simp [ownPhases_withCap_set]
  case hp | hc | hb | hi | hs => simp

theorem sameButRecord_busErrorCycle (code : ErrCode) (a : Addr) (s : State) (k : ErrCapture) :
    SameButRecord (busErrorCycle code a (s.withCap k)) (busErrorCycle code a s) := by
  obtain ⟨-, hidle⟩ := sameButRecord_idleCycle s k
  refine ⟨rfl, ?_⟩
  rw [busErrorCycle_eq, busErrorCycle_eq, ← hidle]

theorem sameButRecord_performed (s : State) (i : Instr) (k : ErrCapture) :
    SameButRecord (performed (s.withCap k) i) (performed s i) := by
  obtain ⟨k', heffect⟩ := effect_withCap s k i (ownPhases s).n
  refine ⟨rfl, ?_⟩
  apply State.eq_of_fields
  case he | hm | hr => simp [ownPhases_withCap_n, heffect]
  case hf => simp [ownPhases_withCap_set]
  case hp | hc | hb | hi | hs => simp

/-- An instruction meets the same branch of its cycle whatever the record holds: no check reads it. -/
theorem exec_withCap {i : Instr} {s t : State} (h : exec i s = .next t) (k : ErrCapture) :
    ∃ u, exec i (s.withCap k) = .next u ∧ SameButRecord u t := by
  by_cases hi : i = .cmdSoftReset
  · subst hi
    obtain rfl := Host.Outcome.next.inj h
    exact ⟨_, rfl, sameButRecord_resetBlock s k⟩
  rw [exec_eq i _ hi] at h ⊢
  obtain rfl := Host.Outcome.next.inj h
  refine ⟨_, rfl, ?_⟩
  rw [checks_withCap]
  cases checks s i with
  | none => exact sameButRecord_performed s i k
  | some code => exact sameButRecord_busErrorCycle code _ s k

/-- Settles O56, over the cases of a step: the record decides none of them, and each leaves the same state but for the record and
the response's data. -/
theorem errorRecordHasNoInfluence : Obligations.ErrorRecordHasNoInfluence := by
  intro s t k h
  show ∃ u, step (s.withCap k) = .next u ∧ SameButRecord u t
  obtain ⟨c, rest, hs, ⟨hr, rfl⟩ | ⟨hr, hq, rfl⟩ | ⟨w, e, hr, hq, hd, rfl⟩ | ⟨w, i, hr, hq, hd, hexec⟩⟩ := step_cases h
  · exact ⟨_, step_of_rst hs hr, sameButRecord_resetBlock (s.withInputs c.pins rest) k⟩
  · exact ⟨_, step_of_no_req hs hr hq, sameButRecord_idleCycle (s.withInputs c.pins rest) k⟩
  · exact ⟨_, step_of_decode_error hs hr hq hd, sameButRecord_busErrorCycle e (busAddr w) (s.withInputs c.pins rest) k⟩
  · rw [step_of_decode_ok (s := s.withCap k) hs hr hq hd]
    exact exec_withCap hexec k

end Sys2Proof.Machine
end

section
/-! Proofs of the statements on the reset state: its values whatever the parameters (R350, R352), and that it meets the invariant (R6). -/

namespace Sys2Proof.Machine

open Sys2Proof.Claims

/-- The reset state for the parameters `p` (R350, R352). -/
def resetOf (p : Params) : State := { State.reset with params := p }

section ResetOf

variable (p : Params)

/-- A reset in the reset state changes nothing. -/
theorem resetBlock_resetOf : resetBlock (resetOf p) = resetOf p := rfl

/-! ### What the reset state reads as (R352) -/

theorem exec_rdStatus_resetOf : exec .rdStatus (resetOf p) = .next (readAnswer (resetOf p) 0#32) := by
  obtain ⟨-, -, -, -, hread⟩ := readControlRegisters
  obtain ⟨-, -, hstatus, -⟩ := hread (resetOf p)
  exact hstatus

theorem exec_rdErrCause_resetOf : exec .rdErrCause (resetOf p) = .next (readAnswer (resetOf p) 0#32) := by
  obtain ⟨-, -, -, -, hread⟩ := readControlRegisters
  obtain ⟨-, -, -, hcause⟩ := hread (resetOf p)
  exact hcause

theorem exec_rdEncCfg_resetOf : exec .rdEncCfg (resetOf p) = .next (readAnswer (resetOf p) 1#32) := by
  obtain ⟨-, -, -, hread⟩ := readEncoderConfiguration
  obtain ⟨hcfg, -⟩ := hread (resetOf p)
  exact hcfg

/-! ### Neither unit can be started: RES is 0 (R180, R214) -/

theorem exec_encStart_resetOf :
    exec .cmdEncStart (resetOf p) = .next (errorAnswer (resetOf p) 0x08#8 0x04#8) := by
  obtain ⟨-, hstart⟩ := encoderStart
  obtain ⟨-, hresZero, -⟩ := hstart (resetOf p)
  exact hresZero rfl rfl

theorem exec_mcStart_resetOf :
    exec .cmdMcStart (resetOf p) = .next (errorAnswer (resetOf p) 0x08#8 0x04#8) := by
  obtain ⟨-, hstart⟩ := loopStart
  obtain ⟨-, hresZero, -⟩ := hstart (resetOf p)
  exact hresZero rfl rfl rfl

end ResetOf

/-- Settles O13: the fields and the ports are those of the reset records, and the reads and the starts answer by the rules that hold
in every state, at these values. -/
theorem resetValues : Obligations.ResetValues := fun p =>
  ⟨rfl, rfl, rfl, rfl, rfl, rfl, rfl, rfl, exec_rdStatus_resetOf p, exec_rdErrCause_resetOf p, exec_rdEncCfg_resetOf p,
    exec_encStart_resetOf p, exec_mcStart_resetOf p⟩

/-- Settles O47: the reset state is what a reset leaves of itself, and every reset with legal parameters meets the invariant. -/
theorem resetMeetsInvariant : Obligations.ResetMeetsInvariant := by
  intro p hp
  have hinv : (resetBlock (resetOf p)).Inv := resetBlock_inv hp
  rwa [resetBlock_resetOf] at hinv

end Sys2Proof.Machine
end
